-- ==== Sys2Proof/Word.lean ====
section
/-! DEFINITION. The word types of the HK3260 and the index ranges of its tables (00_scope.md, Conventions). -/

namespace Sys2Proof

/-- One byte of a frame or of the register window. -/
abbrev Byte := BitVec 8

/-- A 16-bit word: a tag, a tags word, a two-byte field of the window, a frame check. -/
abbrev Half := BitVec 16

/-- A tick value: the 32-bit millisecond count, and every stamp and deadline derived from it (R113). -/
abbrev Tick := BitVec 32

/-- A client port, P0 to P3. -/
abbrev PortIx := Fin 4

/-- A sector-cell, 0 to 15. -/
abbrev CellIx := Fin 16

/-- A service class, 0 to 15. -/
abbrev ClassIx := Fin 16

end Sys2Proof
end

