-- ==== Sys2Proof/Syntax.lean ====
section
/-! DEFINITION. The commands of the HK3260: one constructor for each row of spec/opcode_table.json, with its operands. -/

namespace Sys2Proof

/-- The commands. A request of a client port carries no operand here: its fields are the bytes that FRAME_ARRIVAL placed
in a lane, and its command is the event in which the arbiter hands that request to the Table Engine (R169, R171; log entry 6).
A write access of the management port carries the byte delivered; its address is the transaction's current address (R175). -/
inductive Instr where
  /-- PIN_RESET (R181): the reset input is asserted. -/
  | pinReset
  /-- TICK (R113): the millisecond tick advances by one. -/
  | tick
  /-- FRAME_ARRIVAL (R164): the bytes of one frame, from the delimiter to the last check byte, have arrived at a port. -/
  | frameArrival (port : PortIx) (bytes : List Byte)
  /-- ADMIT (R40): the arbiter hands an Admit request over, and the Table Engine carries it out. -/
  | admitRequest
  /-- CONFIRM (R90). -/
  | confirmRequest
  /-- RELEASE (R92). -/
  | releaseRequest
  /-- LOOKUP (R18). -/
  | lookupRequest
  /-- QUERY (R19). -/
  | queryRequest
  /-- AMEND_SET (R100). -/
  | amendSet
  /-- AMEND_CLEAR (R100). -/
  | amendClear
  /-- AMEND_TEST (R101). -/
  | amendTest
  /-- AMEND_EXCHANGE (R102). -/
  | amendExchange
  /-- RESIZE (R103). -/
  | resizeRequest
  /-- MOVE (R109). -/
  | moveRequest
  /-- FETCH (R158). -/
  | fetchRequest
  /-- CELL_STATUS (R38). -/
  | cellStatusRequest
  /-- WITHDRAW (R146). -/
  | withdrawRequest
  /-- NULL (R171). -/
  | nullRequest
  /-- RESPONSE_SENT (R172): the head response frame of the port's transmit order is sent on the link. -/
  | responseSent (port : PortIx)
  /-- SETUP_GUARD_EXPIRY (R117) of the record at an index. -/
  | setupGuardExpiry (index : Nat)
  /-- GRACE_EXPIRY (R119) of the record at an index. -/
  | graceExpiry (index : Nat)
  /-- WAIT_EXPIRY (R121) of the record at an index. -/
  | waitExpiry (index : Nat)
  /-- SUPERVISION_EXPIRY (R124) of a port. -/
  | supervisionExpiry (port : PortIx)
  /-- PULSE_END (R161) of a port's attention line. -/
  | pulseEnd (port : PortIx)
  /-- DRAIN_JOB_START (R140). -/
  | drainJobStart
  /-- CELL_DRAIN_STEP (R143). -/
  | cellDrainStep
  /-- PORT_DRAIN_STEP (R148). -/
  | portDrainStep
  /-- SELECT_ASSERT (R175): select is asserted and the command byte and start address are sent. -/
  | selectAssert (command : Byte) (address : BitVec 16)
  /-- OPEN_TABLE (R177): the byte 0x01 is written to the table control field. -/
  | openTable
  /-- TABLE_RESET (R178): the byte 0x02 is written to the table control field. -/
  | tableReset
  /-- OPEN (R131): the byte 1 is written to the command field of a cell. -/
  | openCell
  /-- BAR (R27): the byte 2 is written to the command field of a cell. -/
  | barCell
  /-- UNBAR (R27): the byte 3 is written to the command field of a cell. -/
  | unbarCell
  /-- DRAIN (R27): the byte 4 is written to the command field of a cell. -/
  | drainCell
  /-- STOP_DRAIN (R145): the byte 5 is written to the command field of a cell. -/
  | stopDrain
  /-- CAPACITY_WRITE (R23): the low byte of a cell's capacity K is written. -/
  | capacityWrite (byte : Byte)
  /-- FLOOR_WRITE (R23): the low byte of a cell's emergency floor F is written. -/
  | floorWrite (byte : Byte)
  /-- THRESHOLD_WRITE (R133): the low byte of a cell's t1, t2 or t3 is written. -/
  | thresholdWrite (byte : Byte)
  /-- OWNER_PORT_WRITE (R23): a cell's owner port is written. -/
  | ownerPortWrite (byte : Byte)
  /-- DEPTH_LIMIT_WRITE (R77): a cell's queue depth limit is written. -/
  | depthLimitWrite (byte : Byte)
  /-- AGING_WEIGHT_WRITE (R73): the low byte of W is written. -/
  | agingWeightWrite (byte : Byte)
  /-- SUPERVISION_INTERVAL_WRITE (R125): the low byte of S is written. -/
  | supervisionIntervalWrite (byte : Byte)
  /-- ATTENTION_WRITE (R162): a port's attention byte or pulse width is written. -/
  | attentionWrite (byte : Byte)
  /-- RING_SIZE_WRITE (R162): a port's ring size is written. -/
  | ringSizeWrite (byte : Byte)
  /-- EVENT_RAW_WRITE (R179): the low byte of the event raw field is written. -/
  | eventRawWrite (byte : Byte)
  /-- EVENT_ENABLE_WRITE (R180): the low byte of the event enable field is written. -/
  | eventEnableWrite (byte : Byte)
  /-- HIGH_BYTE_READ (R176): a read access of the transaction (log entry 9 for the addresses that are no high byte). -/
  | highByteRead
  /-- REGISTER_WRITE (R175): a write access that no other row names. -/
  | registerWrite (byte : Byte)
  /-- SELECT_RELEASE (R175): select is released. -/
  | selectRelease
  deriving DecidableEq, Repr

end Sys2Proof
end

