-- ==== Sys2Proof/Decode.lean ====
section
/-! DEFINITION. The command that a word of the opcode table spells: spec/opcode_table.json gives no row any bits. -/

namespace Sys2Proof

/-- No row of the table gives bits, so no word spells a command (log entry 1). Requests arrive as the bytes of
FRAME_ARRIVAL, which Machine/Operands.lean reads. -/
def decodeTableWord (_nbits _w : Nat) : Option Instr := none

end Sys2Proof
end

