-- ==== Sys2Proof/Config.lean ====
section
/-! DEFINITION. The fixed sizes of the HK3260, and the free values: what the manual leaves open, as constants without a body. -/

namespace Sys2Proof.Config

/-- The record store holds 16,384 records (1.1, R1). -/
def recordCount : Nat := 16384

/-- The emergency record reserve is the last 64 records of the free list (R9). -/
def reserveSize : Nat := 64

/-- The queues draw their positions from one pool of 512 (R70). -/
def poolSize : Nat := 512

/-- The urgent lane of a port holds up to 8 requests (R167). -/
def urgentLaneSize : Nat := 8

/-- The normal lane of a port holds up to 32 requests (R167). -/
def normalLaneSize : Nat := 32

/-- A preemption decision takes at most four victims (R51). -/
def maxVictims : Nat := 4

/-- FREE VALUE (log entry 3). The bits of a byte or two-byte field that the layouts of the manual list no meaning for,
and the value of a write-only field that is read: the n-th such value the part drives. No body, so nothing can be proved of it. -/
opaque unlistedBits : Nat → BitVec 16

/-- FREE VALUE (log entries 4 and 8). Where the manual leaves open the order of several expiries at one tick, or of several
ports in one write of S, the n-th choice the part makes. It is only ever used reduced modulo the number of choices. -/
opaque openChoice : Nat → Nat

end Sys2Proof.Config
end

