-- ==== Sys2Proof/Machine/State.lean ====
section
/-! DEFINITION. The state of the HK3260 as plain data, its stops, and its value at pin reset. -/

namespace Sys2Proof.Machine

/-- A handle names a record by index and generation (R5). -/
structure Handle where
  index : Nat
  generation : Nat
  deriving DecidableEq, Repr

/-- A session key: cell, terminal tag, bearer (R2, R15). -/
structure Key where
  cell : CellIx
  terminal : BitVec 32
  bearer : Fin 16
  deriving DecidableEq, Repr

/-- The kinds of notice about a record (R151). -/
inductive SessionNotice where
  | grant
  | releaseOrder
  | forcedOut
  | expired
  deriving DecidableEq, Repr

/-- The causes of a notice about a record (R151). -/
inductive Cause where
  | fromQueue
  | fromHold
  | preempted
  | graceExpired
  | drained
  | setupTimeout
  | waitTimeout
  | displaced
  deriving DecidableEq, Repr

/-- The pending notice of a record (R4). Its link to the next backlog entry is the order of the port's backlog list. -/
structure PendingNotice where
  kind : SessionNotice
  cause : Cause
  generation : Nat
  cell : CellIx
  requestTag : Half
  deriving DecidableEq, Repr

/-- The fields of R2 that are present in every live state. -/
structure Session where
  key : Key
  cls : ClassIx
  level : Nat
  emergency : Bool
  vulnerable : Bool
  grace : Nat
  setupGuard : Nat
  demand : Nat
  tags : Half
  requestTag : Half
  handover : Bool
  deriving DecidableEq, Repr

/-- The five live states, each with the fields R2 makes present in it. The deadline kind is the state's:
WAIT in QUEUED, SETUP_GUARD in SETUP, GRACE in CEDING (R115). -/
inductive Stage where
  | queued (arrival virtualArrival deadline : Tick)
  | held (victims : List Handle) (need reserved collected : Nat)
  | setup (stamp : Tick) (deadline : Option Tick)
  | active (stamp : Tick)
  | ceding (stamp : Tick) (beneficiary : Option Handle) (deadline : Tick)
  deriving DecidableEq, Repr

/-- Where a record stands in its life: FREE, one of the live states, or SPENT (1.1). -/
inductive Life where
  | free
  | live (session : Session) (stage : Stage)
  | spent
  deriving DecidableEq, Repr

/-- A session record (R2): the generation, present in every state; what its state gives it; the pending notice (R4). -/
structure Record where
  generation : Nat
  life : Life
  pending : Option PendingNotice
  deriving DecidableEq, Repr

/-- A record as pin reset leaves it: FREE at generation 1 with no pending notice (R7). -/
def Record.fresh : Record := Record.mk 1 .free none

/-- The seven record states as a name (1.1), for the answers that carry a state. -/
inductive RecordState where
  | free
  | queued
  | held
  | setup
  | active
  | ceding
  | spent
  deriving DecidableEq, Repr

/-- A notice copy in a ring (R151). The request tag is delivered for GRANT and EXPIRED alone. -/
inductive Notice where
  | session (kind : SessionNotice) (cause : Cause) (handle : Handle) (cell : CellIx) (requestTag : Half)
  | level (cell : CellIx) (level : Nat)
  deriving DecidableEq, Repr

/-- An entry of a port's backlog (R154): a record's pending notice or a cell's pending LEVEL entry. -/
inductive BacklogEntry where
  | record (index : Nat)
  | cell (cell : CellIx)
  deriving DecidableEq, Repr

/-- The cell states (R26). -/
inductive CellState where
  | closed
  | opened
  | barred
  | draining
  deriving DecidableEq, Repr

/-- The command result field of a cell (R22, R27). -/
inductive CommandResult where
  | done
  | refused
  deriving DecidableEq, Repr

/-- One entry of the cell table (R22), with what the other blocks keep for the cell: its wait queue, head first (R71),
and the order in which the queued records were enqueued (R71); its rank list, head first (R36); its pending LEVEL entry
(R154); its drain flag (R139). -/
structure Cell where
  state : CellState
  owner : PortIx
  capacity : Nat
  floor : Nat
  t1 : Nat
  t2 : Nat
  t3 : Nat
  hysteresis : Nat
  depthLimit : Nat
  countA : Nat
  countC : Nat
  countR : Nat
  occupancy : Nat
  level : Nat
  result : CommandResult
  queue : List Nat
  enqueueOrder : List Nat
  rankList : List Nat
  pendingLevel : Bool
  drainFlag : Bool
  deriving DecidableEq, Repr

/-- One entry of the class table, as stored (R32). -/
structure ServiceClass where
  level : Nat
  emergency : Bool
  mayPreempt : Bool
  vulnerable : Bool
  mayQueue : Bool
  boost : Nat
  refuseLevel : Nat
  setupGuard : Nat
  grace : Nat
  maxWait : Nat
  deriving DecidableEq, Repr

/-- The twelve request kinds (10.6). -/
inductive RequestKind where
  | null
  | admission
  | confirm
  | release
  | lookup
  | query
  | amend
  | resize
  | move
  | fetch
  | cellStatus
  | withdraw
  deriving DecidableEq, Repr

/-- A whole request as received (R168): kind, flags byte, tag and body. -/
structure Request where
  kind : RequestKind
  flags : Byte
  tag : Half
  body : List Byte
  deriving DecidableEq, Repr

/-- The two lanes of a port (R167). -/
inductive Lane where
  | urgent
  | normal
  deriving DecidableEq, Repr

/-- The statuses of 10.5. -/
inductive Status where
  | ok
  | queued
  | held
  | duplicate
  | stale
  | wrongState
  | noRoom
  | tooLarge
  | congested
  | cellClosed
  | cellBarred
  | cellDraining
  | notOwner
  | classClosed
  | queueFull
  | tableFull
  | notReady
  | badRequest
  | portDraining
  | busy
  deriving DecidableEq, Repr

/-- The body of a response, by what it carries (10.6); Machine/Responses.lean lays it out in bytes. -/
inductive ResponseBody where
  | empty
  | handle (h : Handle)
  | handleState (h : Handle) (state : RecordState)
  | lookup (h : Handle) (state : RecordState) (cls : ClassIx) (level demand : Nat)
  | query (index : Nat) (record : Record)
  | amend (oldTags newTags : Half)
  | demand (d : Nat)
  | move (h : Handle) (target : CellIx) (level : Nat)
  | fetch (notices : List Notice) (ringCount : Nat) (backlogFlag : Bool)
  | cellStatus (state : CellState) (capacity floorInUse countA countC countR use occupancy level depth sessions : Nat)
  deriving DecidableEq, Repr

/-- A response frame waiting in a transmit order (R172, R174). -/
structure Response where
  kind : RequestKind
  tag : Half
  status : Status
  zero : Bool
  isMatch : Bool
  clamped : Bool
  body : ResponseBody
  deriving DecidableEq, Repr

/-- The port states (R163). -/
inductive PortState where
  | down
  | up
  | draining
  deriving DecidableEq, Repr

/-- One client port: state, lanes, transmit order and frame error count (Client Link, chapter 10); supervision timestamp
(R123); ring, backlog and attention line (Notice Unit, chapter 9); drain flag (R139).
`sent` is the model's own: the bytes of the frame last sent on the port's transmit line (log entry 13). -/
structure Port where
  state : PortState
  urgentLane : List Request
  normalLane : List Request
  transmit : List Response
  sent : List Byte
  errorCount : Nat
  timestamp : Tick
  ring : List Notice
  ringSize : Nat
  backlog : List BacklogEntry
  attnEnable : Bool
  attnPulse : Bool
  attnActiveLow : Bool
  pulseWidth : Nat
  attnLine : Bool
  pulseStop : Option Tick
  drainFlag : Bool
  deriving DecidableEq, Repr

/-- The job in progress of the Drain Engine (R139). -/
inductive Job where
  | cellDrain (cell : CellIx)
  | portDrain (port : PortIx)
  deriving DecidableEq, Repr

/-- The fields of the register window (11.1). -/
inductive Field where
  | vendorCode
  | partCode
  | revision
  | tableControl
  | tableStatus
  | freeCount
  | queuedCount
  | eventRaw
  | eventEnable
  | agingWeight
  | supervision
  | ringSize (p : PortIx)
  | attention (p : PortIx)
  | pulseWidth (p : PortIx)
  | portState (p : PortIx)
  | errorCount (p : PortIx)
  | cellState (c : CellIx)
  | owner (c : CellIx)
  | capacity (c : CellIx)
  | floor (c : CellIx)
  | threshold1 (c : CellIx)
  | threshold2 (c : CellIx)
  | threshold3 (c : CellIx)
  | hysteresis (c : CellIx)
  | depthLimit (c : CellIx)
  | countA (c : CellIx)
  | countC (c : CellIx)
  | countR (c : CellIx)
  | occupancy (c : CellIx)
  | level (c : CellIx)
  | queueDepth (c : CellIx)
  | cellCommand (c : CellIx)
  | commandResult (c : CellIx)
  | classLevel (k : ClassIx)
  | classFlags (k : ClassIx)
  | classBoost (k : ClassIx)
  | classRefuse (k : ClassIx)
  | classGuard (k : ClassIx)
  | classGrace (k : ClassIx)
  | classMaxWait (k : ClassIx)
  deriving DecidableEq, Repr

/-- What a management transaction does (R175): its command byte was 0x03, 0x02, or neither. -/
inductive Direction where
  | read
  | write
  | noAccess
  deriving DecidableEq, Repr

/-- A management transaction in progress (R175): its direction and the current address. -/
structure Transaction where
  direction : Direction
  address : BitVec 16
  deriving DecidableEq, Repr

/-- The read capture (R176): the captured value and the field it was captured from, none since pin reset. -/
structure Capture where
  value : Half
  field : Option Field
  deriving DecidableEq, Repr

/-- The state of the part.
`pending` is the queue of commands waiting, first in, first out; `dataOut` is the byte on the management port's data output
where the manual states one (log entry 13); `freeDraws` counts the free values drawn (log entries 3, 4 and 8); `chosen` is the
pending drain that the idle Drain Engine has chosen to start (R140), while its start is still to come (log entry 16). These
four are the model's own. -/
structure State where
  pending : List Instr
  tick : Tick
  tableOpen : Bool
  records : List (Nat × Record)
  freeList : List Nat
  directory : List (Nat × Handle)
  cells : Vector Cell 16
  classes : Vector ServiceClass 16
  ports : Vector Port 4
  agingWeight : Nat
  supervision : Nat
  urgentLast : PortIx
  normalLast : PortIx
  job : Option Job
  chosen : Option Job
  eventRaw : BitVec 10
  eventEnable : BitVec 10
  interruptLine : Bool
  holding : Byte
  capture : Capture
  transaction : Option Transaction
  dataOut : Option Byte
  freeDraws : Nat
  deriving DecidableEq, Repr

/-- The faults of the machine: none. The manual describes no event that stops the part, and every command has a next state. -/
inductive Fault where
  deriving DecidableEq, Repr

/-- The refusals of the machine. -/
inductive Refusal where
  /-- Raised by an arm of exec whose command has no meaning yet; no arm raises it now. Safe: the run stops. -/
  | notModelled (mnemonic : String)
  deriving DecidableEq, Repr

/-- A cell at pin reset (R22); its queue, rank list and flags are empty and clear (R36, R70, R139, R156). -/
def Cell.reset : Cell where
  state := .closed
  owner := 0
  capacity := 0
  floor := 0
  t1 := 700
  t2 := 850
  t3 := 950
  hysteresis := 50
  depthLimit := 16
  countA := 0
  countC := 0
  countR := 0
  occupancy := 1000
  level := 0
  result := .done
  queue := []
  enqueueOrder := []
  rankList := []
  pendingLevel := false
  drainFlag := false

/-- A class at pin reset (R32). -/
def ServiceClass.reset : ServiceClass where
  level := 0
  emergency := false
  mayPreempt := false
  vulnerable := false
  mayQueue := false
  boost := 0
  refuseLevel := 4
  setupGuard := 0
  grace := 0
  maxWait := 0

/-- A port at pin reset (R163, R166, R168, R172, R123, R153, R156, R160, R139). -/
def Port.reset : Port where
  state := .down
  urgentLane := []
  normalLane := []
  transmit := []
  sent := []
  errorCount := 0
  timestamp := 0
  ring := []
  ringSize := 256
  backlog := []
  attnEnable := false
  attnPulse := false
  attnActiveLow := false
  pulseWidth := 20
  attnLine := false
  pulseStop := none
  drainFlag := false

/-- The part right after pin reset: R7, R22, R32, R69, R70, R113, R123, R139, R163, R169, R181. -/
def State.reset : State where
  pending := []
  tick := 0
  tableOpen := false
  records := []
  freeList := List.range Config.recordCount
  directory := []
  cells := Vector.replicate 16 Cell.reset
  classes := Vector.replicate 16 ServiceClass.reset
  ports := Vector.replicate 4 Port.reset
  agingWeight := 1000
  supervision := 0
  urgentLast := 3
  normalLast := 3
  job := none
  chosen := none
  eventRaw := 0
  eventEnable := 0
  interruptLine := false
  holding := 0
  capture := Capture.mk 0 none
  transaction := none
  dataOut := none
  freeDraws := 0

end Sys2Proof.Machine
end

