-- ==== Sys2Proof/Machine/Ops.lean ====
section
/-! DEFINITION. Named operations over the state: modular time, sparse stores, records, the free list, the key directory, cells, classes and ports. -/

namespace Sys2Proof.Machine

/-! ### Modular time -/

/-- a is earlier than b (00_scope.md, Modular comparison): (b − a) mod 2^32 lies in 1 to 2^31 − 1. -/
def earlier (a b : Tick) : Bool :=
  decide (1 ≤ (b - a).toNat ∧ (b - a).toNat ≤ 2147483647)

/-- a is later than b: neither equal to b nor earlier than it. -/
def later (a b : Tick) : Bool :=
  decide (a ≠ b) && !earlier a b

/-- A duration in milliseconds after a tick, modulo 2^32 (R114). -/
def after (now : Tick) (ms : Nat) : Tick :=
  now + BitVec.ofNat 32 ms

/-- The age of a stamp: now less the stamp, modulo 2^32 (R124, R142). -/
def age (now stamp : Tick) : Nat :=
  (now - stamp).toNat

/-! ### Sparse stores: lists of (key, value) with rising keys -/

/-- The value at a key, if one is listed. -/
def sparseFind {α : Type} (l : List (Nat × α)) (k : Nat) : Option α :=
  match l with
  | [] => none
  | (j, v) :: rest => if j = k then some v else sparseFind rest k

/-- List a value at a key, in the key's place. -/
def sparseInsert {α : Type} (l : List (Nat × α)) (k : Nat) (v : α) : List (Nat × α) :=
  match l with
  | [] => [(k, v)]
  | (j, w) :: rest =>
    if k < j then (k, v) :: (j, w) :: rest
    else if k = j then (k, v) :: rest
    else (j, w) :: sparseInsert rest k v

/-- Take a key out. -/
def sparseErase {α : Type} (l : List (Nat × α)) (k : Nat) : List (Nat × α) :=
  l.filter fun e => decide (e.1 ≠ k)

/-- Keys strictly rising: the canonical form of a sparse store. -/
def sparseSorted {α : Type} (l : List (Nat × α)) : Bool :=
  match l with
  | [] => true
  | [_] => true
  | a :: b :: rest => decide (a.1 < b.1) && sparseSorted (b :: rest)

/-! ### Records -/

/-- The record at an index. An index the store lists nothing for is as pin reset left it (R7). -/
def State.record (s : State) (i : Nat) : Record :=
  (sparseFind s.records i).getD Record.fresh

/-- Store a record; a record as pin reset leaves it is not listed, so that equal stores are equal lists. -/
def State.setRecord (s : State) (i : Nat) (r : Record) : State :=
  { s with records := if r = Record.fresh then sparseErase s.records i else sparseInsert s.records i r }

/-- The session and stage of a live record; none for a FREE or SPENT one. -/
def State.liveAt (s : State) (i : Nat) : Option (Session × Stage) :=
  match (s.record i).life with
  | .live ses st => some (ses, st)
  | _ => none

/-- The handle of the record at an index: the index with its current generation (R5). -/
def State.handleOf (s : State) (i : Nat) : Handle :=
  Handle.mk i (s.record i).generation

/-- The next generation, 255 advancing to 1 (R5). -/
def nextGeneration (g : Nat) : Nat :=
  if g = 255 then 1 else g + 1

/-- The state of a record, by name. -/
def Record.state (r : Record) : RecordState :=
  match r.life with
  | .free => .free
  | .live _ (.queued _ _ _) => .queued
  | .live _ (.held _ _ _ _) => .held
  | .live _ (.setup _ _) => .setup
  | .live _ (.active _) => .active
  | .live _ (.ceding _ _ _) => .ceding
  | .spent => .spent

/-- Give a live record a session and a stage, keeping its generation and pending notice. -/
def State.setLive (s : State) (i : Nat) (ses : Session) (st : Stage) : State :=
  s.setRecord i { s.record i with life := .live ses st }

/-- Change the stage of a live record; no change to a record that is not live. -/
def State.setStage (s : State) (i : Nat) (st : Stage) : State :=
  match s.liveAt i with
  | some (ses, _) => s.setLive i ses st
  | none => s

/-- Change the pending notice of a record (R4). -/
def State.setPending (s : State) (i : Nat) (n : Option PendingNotice) : State :=
  s.setRecord i { s.record i with pending := n }

/-- A property of the session of a live record; false for a record that is not live. -/
def State.sessionAt (s : State) (i : Nat) (f : Session → Bool) : Bool :=
  match s.liveAt i with
  | some (ses, _) => f ses
  | none => false

/-- The indices of the live records whose key names a cell, ascending (R38, R141). -/
def State.liveIn (s : State) (c : CellIx) : List Nat :=
  (s.records.map Prod.fst).filter fun i => s.sessionAt i fun ses => decide (ses.key.cell = c)

/-! ### The free list -/

/-- Append an index at the free list's tail (R8). -/
def State.giveBack (s : State) (i : Nat) : State :=
  { s with freeList := s.freeList ++ [i] }

/-! ### The key directory -/

/-- A key as one number, in cell, terminal and bearer order. -/
def Key.code (k : Key) : Nat :=
  (k.cell.val * 4294967296 + k.terminal.toNat) * 16 + k.bearer.val

/-- The handle that the directory maps a key to (R15). -/
def State.findKey (s : State) (k : Key) : Option Handle :=
  sparseFind s.directory k.code

/-- Make a directory entry (R16). -/
def State.addKey (s : State) (k : Key) (h : Handle) : State :=
  { s with directory := sparseInsert s.directory k.code h }

/-- Remove a directory entry (R11, R16). -/
def State.dropKey (s : State) (k : Key) : State :=
  { s with directory := sparseErase s.directory k.code }

/-! ### Cells, classes, ports -/

/-- The entry of a cell. -/
def State.cell (s : State) (c : CellIx) : Cell := s.cells[c]

/-- Change the entry of a cell. -/
def State.modCell (s : State) (c : CellIx) (f : Cell → Cell) : State :=
  { s with cells := s.cells.set c (f s.cells[c]) }

/-- The entry of a class. -/
def State.classAt (s : State) (k : ClassIx) : ServiceClass := s.classes[k]

/-- Change the entry of a class. -/
def State.modClass (s : State) (k : ClassIx) (f : ServiceClass → ServiceClass) : State :=
  { s with classes := s.classes.set k (f s.classes[k]) }

/-- A client port. -/
def State.port (s : State) (p : PortIx) : Port := s.ports[p]

/-- Change a client port. -/
def State.modPort (s : State) (p : PortIx) (f : Port → Port) : State :=
  { s with ports := s.ports.set p (f s.ports[p]) }

/-- The use of a cell: U = A + C + R (R30). -/
def Cell.use (k : Cell) : Nat := k.countA + k.countC + k.countR

/-- The pool count: the QUEUED records of all sixteen queues together (R70). -/
def State.poolCount (s : State) : Nat :=
  (s.cells.toList.map fun k => k.queue.length).sum

/-- The owner port of the cell is DRAINING. -/
def State.ownerDraining (s : State) (c : CellIx) : Bool :=
  decide ((s.port (s.cell c).owner).state = .draining)

end Sys2Proof.Machine
end

