-- ==== Sys2Proof/Machine/Flags.lean ====
section
/-! DEFINITION. The flags and lines of the part: management events and the interrupt line (11.4), the attention lines (9.6). -/

namespace Sys2Proof.Machine

/-- The raw flag of PORT_DOWN for a port (11.1, event raw bits 0 to 3). -/
def portDownEvent (p : PortIx) : BitVec 10 := 1#10 <<< p.val

/-- The raw flag of LINK_ERROR for a port (bits 4 to 7). -/
def linkErrorEvent (p : PortIx) : BitVec 10 := 16#10 <<< p.val

/-- The raw flag of DRAIN_DONE (bit 8). -/
def drainDoneEvent : BitVec 10 := 256#10

/-- The raw flag of RESERVE (bit 9). -/
def reserveEvent : BitVec 10 := 512#10

/-- Give the raw flags and the enables their values, and let the interrupt line follow: asserted while at least one event
has both set (R180). -/
def State.setEvents (s : State) (raw enable : BitVec 10) : State :=
  { s with eventRaw := raw, eventEnable := enable, interruptLine := decide (raw &&& enable ≠ 0#10) }

/-- Raise a management event: its raw flag is set, whatever its enable (R179). -/
def State.raiseEvent (s : State) (flag : BitVec 10) : State :=
  s.setEvents (s.eventRaw ||| flag) s.eventEnable

/-- The attention line after the ring count went from `before` to its present value, as the event that changed it
completes (R160 in LEVEL_MODE, R161 in PULSE_MODE). -/
def Port.followRing (q : Port) (now : Tick) (before : Nat) : Port :=
  if q.attnEnable then
    if q.attnPulse then
      if before = 0 ∧ 0 < q.ring.length ∧ q.pulseStop = none then
        { q with attnLine := true, pulseStop := some (after now q.pulseWidth) }
      else q
    else { q with attnLine := decide (0 < q.ring.length) }
  else { q with attnLine := false }

/-- The ring emptied by entry to DRAINING or a Table Reset: the line is deasserted and any pulse ends (R153, R160, R161). -/
def Port.clearRing (q : Port) : Port :=
  { q with ring := [], attnLine := false, pulseStop := none }

/-- The level that the attention output drives: the active level of its polarity while asserted, the other while not (R160). -/
def Port.attnOutput (q : Port) : Bool :=
  q.attnLine != q.attnActiveLow

/-- The enable part of an attention write, under the settings as they now stand (R161, R162). -/
def Port.writeEnable (q : Port) (now : Tick) (enable : Bool) : Port :=
  if enable = q.attnEnable then q
  else if enable then ({ q with attnEnable := true }).followRing now 0
  else { q with attnEnable := false, attnLine := false, pulseStop := none }

/-- A write of the attention byte (R162): mode and polarity are taken while enable is clear, then the enable is taken. -/
def Port.writeAttention (q : Port) (now : Tick) (b : Byte) : Port :=
  let q1 := if q.attnEnable then q else { q with attnPulse := b.getLsbD 1, attnActiveLow := b.getLsbD 2 }
  q1.writeEnable now (b.getLsbD 0)

/-- A write of the pulse width (R160, R162): taken while enable is clear, 0 stored as 1. -/
def Port.writePulseWidth (q : Port) (b : Byte) : Port :=
  if q.attnEnable then q else { q with pulseWidth := max 1 b.toNat }

/-- The tick has reached the pulse's start plus its width (R161). -/
def Port.pulseDue (q : Port) (now : Tick) : Bool :=
  decide (q.pulseStop = some now)

/-- The end of a pulse (R161). -/
def Port.endPulse (q : Port) : Port :=
  { q with attnLine := false, pulseStop := none }

end Sys2Proof.Machine
end

