-- ==== Sys2Proof/Machine/Notices.lean ====
section
/-! DEFINITION. Raising, placing, moving and clearing notices (chapter 9). -/

namespace Sys2Proof.Machine

/-- A notice may go straight into the ring: the backlog is empty and the ring holds fewer notices than its size (R152, case 2). -/
def Port.takesDirectly (q : Port) : Bool :=
  q.backlog.isEmpty && decide (q.ring.length < q.ringSize)

/-- Append a notice at the ring's tail; the attention line follows the count (R153, R160, R161). -/
def Port.pushRing (q : Port) (now : Tick) (n : Notice) : Port :=
  ({ q with ring := q.ring ++ [n] }).followRing now q.ring.length

/-- Append an entry at the backlog's tail (R154). -/
def Port.pushBacklog (q : Port) (e : BacklogEntry) : Port :=
  { q with backlog := q.backlog ++ [e] }

/-- Place a notice about the record at an index in the backlog of a port (R154): a pending notice the record already has
is replaced in its place, otherwise an entry is made at the tail. -/
def State.backlogSession (s : State) (p : PortIx) (i : Nat) (n : PendingNotice) : State :=
  if (s.record i).pending.isSome then s.setPending i (some n)
  else (s.setPending i (some n)).modPort p fun q => q.pushBacklog (.record i)

/-- Raise a notice about a live record for the owner port of its cell, and place it (R151, R152, R4). The notice names the
handle and the cell the record has now, and carries its request tag. -/
def State.raiseSession (s : State) (i : Nat) (kind : SessionNotice) (cause : Cause) : State :=
  match s.liveAt i with
  | some (ses, _) =>
    let p := (s.cell ses.key.cell).owner
    if (s.port p).state = .draining then s
    else if (s.port p).takesDirectly then
      s.modPort p fun q => q.pushRing s.tick (.session kind cause (s.handleOf i) ses.key.cell ses.requestTag)
    else s.backlogSession p i (PendingNotice.mk kind cause (s.record i).generation ses.key.cell ses.requestTag)
  | none => s

/-- Raise a LEVEL notice of a cell for its owner port, and place it (R136, R137, R152, R154): discarded at a DRAINING port,
absorbed by a pending LEVEL entry of the same cell. -/
def State.raiseLevel (s : State) (c : CellIx) : State :=
  let p := (s.cell c).owner
  if (s.port p).state = .draining then s
  else if (s.port p).takesDirectly then
    s.modPort p fun q => q.pushRing s.tick (.level c (s.cell c).level)
  else if (s.cell c).pendingLevel then s
  else (s.modCell c fun k => { k with pendingLevel := true }).modPort p fun q => q.pushBacklog (.cell c)

/-- A record whose backlog entry has left the backlog: the pending notice becomes absent, and a SPENT record becomes FREE
and is appended at the free list's tail (R13, R156). -/
def State.dropPending (s : State) (i : Nat) : State :=
  if (s.record i).life = .spent then
    (s.setRecord i { s.record i with life := .free, pending := none }).giveBack i
  else s.setPending i none

/-- The notice that a backlog entry becomes when it moves into the ring (R156): a record's pending kind, cause, named
generation, cell and request tag; a cell's present level (R155). -/
def State.entryNotice (s : State) (e : BacklogEntry) : Option Notice :=
  match e with
  | .record i => (s.record i).pending.map fun n => .session n.kind n.cause (Handle.mk i n.generation) n.cell n.requestTag
  | .cell c => some (.level c (s.cell c).level)

/-- What becomes of the record or cell whose entry leaves the backlog (R156). -/
def State.dropEntry (s : State) (e : BacklogEntry) : State :=
  match e with
  | .record i => s.dropPending i
  | .cell c => s.modCell c fun k => { k with pendingLevel := false }

/-- Move backlog heads into the ring while the backlog is not empty and the ring has room (R158, step 2). The attention
line is brought up to date by the Fetch, once, when it completes. -/
def State.refillRing (s : State) (p : PortIx) (fuel : Nat) : State :=
  match fuel with
  | 0 => s
  | n + 1 =>
    match (s.port p).backlog with
    | [] => s
    | e :: rest =>
      if (s.port p).ring.length < (s.port p).ringSize then
        ((s.modPort p fun q => { q with backlog := rest, ring := q.ring ++ (s.entryNotice e).toList }).dropEntry e).refillRing p n
      else s

/-- A Fetch of count k at a port (R158): the notices removed, and the state after the removal and the moves. -/
def State.fetchNotices (s : State) (p : PortIx) (k : Nat) : List Notice × State :=
  let taken := (s.port p).ring.take k
  let before := (s.port p).ring.length
  let s1 := s.modPort p fun q => { q with ring := q.ring.drop k }
  let s2 := s1.refillRing p (s1.port p).backlog.length
  (taken, s2.modPort p fun q => q.followRing s.tick before)

/-- Discard the entries of a backlog, head first (R156, clearing at the entry to DRAINING). -/
def State.dropEntries (s : State) (es : List BacklogEntry) : State :=
  es.foldl State.dropEntry s

/-- Clear a port's ring and backlog at its entry to DRAINING (R147, step 2): SPENT records become FREE in backlog order,
live records lose their pending notice, cells their pending LEVEL entry; the attention line is deasserted. -/
def State.clearNotices (s : State) (p : PortIx) : State :=
  (s.dropEntries (s.port p).backlog).modPort p fun q => { q.clearRing with backlog := [] }

end Sys2Proof.Machine
end

