-- ==== Sys2Proof/Machine/Levels.lean ====
section
/-! DEFINITION. Occupancy and congestion level (chapter 7). -/

namespace Sys2Proof.Machine

/-- Occupancy in per-mille (R127): 1000 when K is 0 or U is at or above K, otherwise U × 1000 / K rounded down. -/
def occupancyOf (capacity use : Nat) : Nat :=
  if capacity = 0 ∨ capacity ≤ use then 1000 else use * 1000 / capacity

/-- The threshold in use for t2: the greater of the stored t2 and t1 (R25). -/
def Cell.t2InUse (k : Cell) : Nat := max k.t2 k.t1

/-- The threshold in use for t3: the greater of the stored t3 and the t2 in use (R25). -/
def Cell.t3InUse (k : Cell) : Nat := max k.t3 k.t2InUse

/-- The threshold in use at which a level is reached from below (7.2). -/
def Cell.threshold (k : Cell) (level : Nat) : Nat :=
  if level ≤ 1 then k.t1 else if level = 2 then k.t2InUse else k.t3InUse

/-- The bar under which a level is left downward: t − h, taken as 0 where h ≥ t (7.2). -/
def Cell.bar (k : Cell) (level : Nat) : Nat := k.threshold level - k.hysteresis

/-- The largest level whose threshold in use an occupancy has reached, 0 when it has reached none. -/
def Cell.reached (k : Cell) (o : Nat) : Nat :=
  if k.t3InUse ≤ o then 3 else if k.t2InUse ≤ o then 2 else if k.t1 ≤ o then 1 else 0

/-- The lowering step (R129, step 2): while the level is above 0 and the occupancy is below its bar, one level down. -/
def Cell.lowered (k : Cell) (o : Nat) (level : Nat) : Nat :=
  match level with
  | 0 => 0
  | n + 1 => if o < k.bar (n + 1) then k.lowered o n else n + 1

/-- The level a recompute ends at, from the level held (R129). -/
def Cell.nextLevel (k : Cell) (o : Nat) : Nat :=
  if k.level < k.reached o then k.reached o else k.lowered o k.level

/-- A recompute of a cell's entry (R128, R129). In a CLOSED cell the occupancy is formed and the level is held (R131). -/
def Cell.recomputed (k : Cell) : Cell :=
  let o := occupancyOf k.capacity k.use
  { k with occupancy := o, level := if k.state = .closed then k.level else k.nextLevel o }

/-- A recompute by the Level Monitor, with the LEVEL notice that a change of level raises (R136). -/
def State.recompute (s : State) (c : CellIx) : State :=
  let s1 := s.modCell c Cell.recomputed
  if (s1.cell c).level = (s.cell c).level then s1 else s1.raiseLevel c

/-- Entry to CLOSED (R28, R131, R136): the cell goes to CLOSED and its level to 0, with a LEVEL notice when that is a change. -/
def State.closeCell (s : State) (c : CellIx) : State :=
  let s1 := s.modCell c fun k => { k with state := .closed, level := 0 }
  if (s.cell c).level = 0 then s1 else s1.raiseLevel c

end Sys2Proof.Machine
end

