-- ==== Sys2Proof/Machine/Admission.lean ====
section
/-! DEFINITION. Limits, headroom, plain admission, the preemption decision, victim exit, promotion and withdrawal (chapters 2.4, 2.5, 3). -/

namespace Sys2Proof.Machine

/-! ### Class fields in use (R32, R33, R35) -/

/-- May preempt in use: set for an emergency class. The model takes it so for every class whose emergency flag is set, a
closed one among them: an ordinary queue head may then preempt although R33 speaks of the overrides of an open class alone
(DESIGN CHOICE, log entry 21). -/
def ServiceClass.mayPreemptInUse (k : ServiceClass) : Bool := k.mayPreempt || k.emergency

/-- May queue in use: set for an emergency class. -/
def ServiceClass.mayQueueInUse (k : ServiceClass) : Bool := k.mayQueue || k.emergency

/-- Vulnerable in use: clear for an emergency class. -/
def ServiceClass.vulnerableInUse (k : ServiceClass) : Bool := k.vulnerable && !k.emergency

/-- Refuse level in use: 4 for an emergency class. -/
def ServiceClass.refuseInUse (k : ServiceClass) : Nat := if k.emergency then 4 else k.refuseLevel

/-- The effective level of an admission (R34). -/
def ServiceClass.admitLevel (k : ServiceClass) (handover : Bool) : Nat :=
  if k.emergency then 15 else min 14 (min 14 k.level + if handover then k.boost else 0)

/-- The level of a class in use for a record without the emergency flag: that of a closed class counts as 1 (R109), that of
an open emergency class is 15 whatever is stored (R33). -/
def ServiceClass.levelInUse (k : ServiceClass) : Nat :=
  if k.level = 0 then 1 else if k.emergency then 15 else k.level

/-- The level of a record after a Move (R34, R109): 15 for a record with the emergency flag; otherwise the class level in use
plus the boost, limited to 14. -/
def ServiceClass.moveLevel (k : ServiceClass) (emergency : Bool) : Nat :=
  if emergency then 15 else min 14 (k.levelInUse + k.boost)

/-! ### Limit and headroom (R24, R43, R44) -/

/-- The floor in use F′: the lesser of F and K (R24). -/
def Cell.floorInUse (k : Cell) : Nat := min k.floor k.capacity

/-- The limit L of a requester: K with the emergency flag, K − F′ without (R43). -/
def Cell.limit (k : Cell) (emergency : Bool) : Nat :=
  if emergency then k.capacity else k.capacity - k.floorInUse

/-- The headroom H of a requester: L − U, and 0 when U is at or above L (R44). -/
def Cell.headroom (k : Cell) (emergency : Bool) : Nat := k.limit emergency - k.use

/-- The shortfall s = U + d − L (R50). -/
def Cell.shortfall (k : Cell) (emergency : Bool) (demand : Nat) : Nat := k.use + demand - k.limit emergency

/-! ### The rank list (R36, R37) -/

/-- Place a record on a rank list: ahead of every record of its own level, behind every record of a lower level. -/
def rankInsert (levelOf : Nat → Nat) (i level : Nat) (l : List Nat) : List Nat :=
  match l with
  | [] => [i]
  | j :: rest => if level ≤ levelOf j then i :: j :: rest else j :: rankInsert levelOf i level rest

/-- The level of a live record, 0 for a record that is not live. -/
def State.levelAt (s : State) (i : Nat) : Nat :=
  match s.liveAt i with
  | some (ses, _) => ses.level
  | none => 0

/-- The demand of a live record, 0 for a record that is not live. -/
def State.demandAt (s : State) (i : Nat) : Nat :=
  match s.liveAt i with
  | some (ses, _) => ses.demand
  | none => 0

/-- A record joins its cell's rank list when its vulnerable flag is set (R37). -/
def State.joinRank (s : State) (c : CellIx) (i : Nat) (ses : Session) : State :=
  if ses.vulnerable then s.modCell c fun k => { k with rankList := rankInsert s.levelAt i ses.level k.rankList }
  else s

/-- A record leaves a rank list. -/
def State.leaveRank (s : State) (c : CellIx) (i : Nat) : State :=
  s.modCell c fun k => { k with rankList := k.rankList.filter fun j => decide (j ≠ i) }

/-! ### Counter changes -/

/-- A += d. -/
def State.addA (s : State) (c : CellIx) (d : Nat) : State := s.modCell c fun k => { k with countA := k.countA + d }

/-- A −= d (log entry 5: never below 0 while R30 holds). -/
def State.subA (s : State) (c : CellIx) (d : Nat) : State := s.modCell c fun k => { k with countA := k.countA - d }

/-- C += d. -/
def State.addC (s : State) (c : CellIx) (d : Nat) : State := s.modCell c fun k => { k with countC := k.countC + d }

/-- C −= d. -/
def State.subC (s : State) (c : CellIx) (d : Nat) : State := s.modCell c fun k => { k with countC := k.countC - d }

/-- R += d. -/
def State.addR (s : State) (c : CellIx) (d : Nat) : State := s.modCell c fun k => { k with countR := k.countR + d }

/-- R −= d. -/
def State.subR (s : State) (c : CellIx) (d : Nat) : State := s.modCell c fun k => { k with countR := k.countR - d }

/-! ### Plain admission (R48) -/

/-- The setup guard deadline formed at a tick: none when the guard is 0 (R48, R114). -/
def guardDeadline (now : Tick) (guard : Nat) : Option Tick :=
  if guard = 0 then none else some (after now guard)

/-- The stage a record has when it enters SETUP now (R48, R60). -/
def setupStage (now : Tick) (ses : Session) : Stage :=
  .setup now (guardDeadline now ses.setupGuard)

/-- A record that has just been given the stage SETUP: A += d and the rank list (R48). The recompute follows when the
change is complete. -/
def State.countSetup (s : State) (c : CellIx) (i : Nat) (ses : Session) : State :=
  (s.addA c ses.demand).joinRank c i ses

/-! ### The preemption decision (R50 to R54) -/

/-- The victim walk (R51) over a rank list: the records taken and the sum of their demands. `room` counts how many more
records may be taken, `v` is the sum so far. -/
def State.victimWalk (s : State) (level shortfall : Nat) (room v : Nat) (l : List Nat) : List Nat × Nat :=
  match room, l with
  | 0, _ => ([], v)
  | _ + 1, [] => ([], v)
  | n + 1, i :: rest =>
    if s.levelAt i < level then
      let v1 := v + s.demandAt i
      if shortfall ≤ v1 then ([i], v1)
      else
        let r := s.victimWalk level shortfall n v1 rest
        (i :: r.1, r.2)
    else ([], v)

/-- The victims of a decision, when the walk covers the shortfall (R52); none when it falls through (R54). -/
def State.victimsFor (s : State) (c : CellIx) (ses : Session) : Option (List Nat) :=
  let shortfall := (s.cell c).shortfall ses.emergency ses.demand
  let r := s.victimWalk ses.level shortfall Config.maxVictims 0 (s.cell c).rankList
  if shortfall ≤ r.2 then some r.1 else none

/-- The admit stamp of a SETUP, ACTIVE or CEDING stage. -/
def Stage.stamp (st : Stage) : Tick :=
  match st with
  | .queued _ _ _ => 0
  | .held _ _ _ _ => 0
  | .setup t _ => t
  | .active t => t
  | .ceding t _ _ => t

/-- One record becomes a victim of a requester (R52): it leaves the rank list, its demand goes from A to C, it enters CEDING
with its beneficiary and its GRACE deadline, and RELEASE_ORDER/PREEMPTED is raised. -/
def State.takeVictim (requester : Handle) (c : CellIx) (s : State) (i : Nat) : State :=
  match s.liveAt i with
  | some (ses, st) =>
    ((((s.leaveRank c i).subA c ses.demand).addC c ses.demand).setLive i ses
      (.ceding st.stamp (some requester) (after s.tick ses.grace))).raiseSession i .releaseOrder .preempted
  | none => s

/-- All victims of a decision, in the order taken (R52). -/
def State.takeVictims (s : State) (requester : Handle) (c : CellIx) (victims : List Nat) : State :=
  victims.foldl (State.takeVictim requester c) s

/-- The stage of a requester that a decision places in HELD (R53). -/
def State.heldStage (s : State) (c : CellIx) (ses : Session) (victims : List Nat) : Stage :=
  .held (victims.map s.handleOf) ((s.cell c).shortfall ses.emergency ses.demand) ((s.cell c).headroom ses.emergency) 0

/-! ### Promotion, victim exit, withdrawal -/

/-- A victim's beneficiary becomes absent (R61, R64). -/
def State.unbind (s : State) (h : Handle) : State :=
  match s.liveAt h.index with
  | some (ses, .ceding stamp _ deadline) =>
    if (s.record h.index).generation = h.generation then s.setLive h.index ses (.ceding stamp none deadline) else s
  | _ => s

/-- The bond with each of these victims ends. -/
def State.unbindAll (s : State) (victims : List Handle) : State :=
  victims.foldl State.unbind s

/-- Promotion of the HELD record at an index (R60, R61, R62), within the victim exit that completed its need. The victims
still in its list lose their beneficiary; GRANT/FROM_HOLD is raised. -/
def State.promote (s : State) (c : CellIx) (i : Nat) (ses : Session) (victims : List Handle) (need reserved : Nat) : State :=
  ((((s.subR c (reserved + need)).unbindAll victims).setLive i ses (setupStage s.tick ses)).countSetup c i ses).raiseSession
    i .grant .fromHold

/-- The units that a victim of demand v passes to its beneficiary (R58), when it has one that is HELD: take goes to
collected and to R, the victim leaves the list, and a need thereby met promotes the beneficiary. -/
def State.passUnits (s : State) (c : CellIx) (victim : Handle) (v : Nat) (beneficiary : Handle) : State :=
  match s.liveAt beneficiary.index with
  | some (ses, .held victims need reserved collected) =>
    if (s.record beneficiary.index).generation = beneficiary.generation then
      let take := min v (need - collected)
      let left := victims.filter fun h => decide (h ≠ victim)
      let s1 := (s.addR c take).setLive beneficiary.index ses (.held left need reserved (collected + take))
      if collected + take = need then s1.promote c beneficiary.index ses left need reserved else s1
    else s
  | _ => s

/-- The victim exit of the CEDING record at an index, with any promotion in it, as one change at its cell, and the
recompute that follows it (R58, R128). -/
def State.victimExit (s : State) (i : Nat) (ses : Session) (beneficiary : Option Handle) : State :=
  let c := ses.key.cell
  let s1 := s.subC c ses.demand
  let s2 := match beneficiary with
    | some b => s1.passUnits c (s.handleOf i) ses.demand b
    | none => s1
  s2.recompute c

/-- The withdrawal of a HELD record (R64): R loses its headroom reserved and what it collected, and its remaining victims
lose their beneficiary. The Level Monitor sees the change when there is one. -/
def State.withdrawHeld (s : State) (ses : Session) (victims : List Handle) (reserved collected : Nat) : State :=
  let c := ses.key.cell
  let s1 := (s.subR c (reserved + collected)).unbindAll victims
  if reserved + collected = 0 then s1 else s1.recompute c

end Sys2Proof.Machine
end

