-- ==== Sys2Proof/Machine/Queues.lean ====
section
/-! DEFINITION. The wait queues and queue service (chapter 4), and retirement (1.5). -/

namespace Sys2Proof.Machine

/-! ### Queue order (R71, R72) -/

/-- The virtual arrival: arrival − λ × W, modulo 2^32 (R72). -/
def virtualArrival (arrival : Tick) (level weight : Nat) : Tick :=
  arrival - BitVec.ofNat 32 (level * weight)

/-- The virtual arrival that a QUEUED record holds; 0 for any other. -/
def State.virtualAt (s : State) (i : Nat) : Tick :=
  match s.liveAt i with
  | some (_, .queued _ va _) => va
  | _ => 0

/-- A live record has the emergency flag. -/
def State.emergencyAt (s : State) (i : Nat) : Bool :=
  s.sessionAt i fun ses => ses.emergency

/-- Place a record in a queue (R74). An emergency record stands ahead of the first non-emergency one; a non-emergency
record stands ahead of the first non-emergency record of later virtual arrival. -/
def queueInsert (emergencyOf : Nat → Bool) (virtualOf : Nat → Tick) (i : Nat) (l : List Nat) : List Nat :=
  match l with
  | [] => [i]
  | j :: rest =>
    if !emergencyOf j && (emergencyOf i || later (virtualOf j) (virtualOf i)) then i :: j :: rest
    else j :: queueInsert emergencyOf virtualOf i rest

/-- A record leaves its queue (R79): the records behind it move up. -/
def State.leaveQueue (s : State) (c : CellIx) (i : Nat) : State :=
  s.modCell c fun k =>
    { k with
      queue := k.queue.filter fun j => decide (j ≠ i)
      enqueueOrder := k.enqueueOrder.filter fun j => decide (j ≠ i) }

/-- A record is the head of a cell's queue. -/
def State.isHead (s : State) (c : CellIx) (i : Nat) : Bool :=
  decide ((s.cell c).queue.head? = some i)

/-! ### Retirement (R11) -/

/-- Retirement of a live record, once its path has made the changes of its former state and raised its notice. The deadline
and the other fields of the live state go with it; a record with a pending notice enters SPENT, any other becomes FREE at
the free list's tail. -/
def State.retire (s : State) (i : Nat) : State :=
  match s.liveAt i with
  | some (ses, _) =>
    let c := ses.key.cell
    let s1 := ((s.dropKey ses.key).leaveRank c i).leaveQueue c i
    let r := s1.record i
    let generation := nextGeneration r.generation
    if r.pending.isSome then s1.setRecord i { r with generation := generation, life := .spent }
    else (s1.setRecord i { r with generation := generation, life := .free }).giveBack i
  | none => s

/-! ### Queue service (R80 to R85) -/

/-- A pass runs in a cell that is OPEN or BARRED and whose owner port is not DRAINING (R81). -/
def State.passRuns (s : State) (c : CellIx) : Bool :=
  (decide ((s.cell c).state = .opened) || decide ((s.cell c).state = .barred)) && !s.ownerDraining c

/-- A requester may preempt: its class may, or it has the emergency flag (R35, R46). -/
def State.mayPreempt (s : State) (ses : Session) : Bool :=
  (s.classAt ses.cls).mayPreemptInUse || ses.emergency

/-- A queue head admitted by plain admission (R83): it leaves the queue for SETUP, and GRANT/FROM_QUEUE is raised. -/
def State.serveHead (s : State) (c : CellIx) (i : Nat) (ses : Session) : State :=
  ((((s.leaveQueue c i).setLive i ses (setupStage s.tick ses)).countSetup c i ses).raiseSession i .grant .fromQueue).recompute c

/-- A queue head admitted by a preemption decision (R83): it leaves the queue for HELD, its victims cede, no GRANT is raised. -/
def State.holdHead (s : State) (c : CellIx) (i : Nat) (ses : Session) (victims : List Nat) : State :=
  let stage := s.heldStage c ses victims
  let reserved := (s.cell c).headroom ses.emergency
  let s1 := (s.leaveQueue c i).takeVictims (s.handleOf i) c victims
  ((s1.setLive i ses stage).addR c reserved).recompute c

/-- Try the head of a queue by the two direct routes (R82); none when it cannot be admitted (R85). -/
def State.tryHead (s : State) (c : CellIx) (i : Nat) : Option State :=
  match s.liveAt i with
  | some (ses, _) =>
    if (s.cell c).state = .barred ∧ ses.emergency = false then none
    else if ses.demand ≤ (s.cell c).headroom ses.emergency then some (s.serveHead c i ses)
    else if s.mayPreempt ses then (s.victimsFor c ses).map fun vs => s.holdHead c i ses vs
    else none
  | none => none

/-- Try head after head until one cannot be admitted or the queue is empty (R84, R85). -/
def State.passSteps (s : State) (c : CellIx) (fuel : Nat) : State :=
  match fuel with
  | 0 => s
  | n + 1 =>
    match (s.cell c).queue with
    | [] => s
    | i :: _ =>
      match s.tryHead c i with
      | some s1 => s1.passSteps c n
      | none => s

/-- A queue service pass in a cell (R81): every admission takes one record out of the queue, so as many attempts as the
queue has records are enough. -/
def State.servicePass (s : State) (c : CellIx) : State :=
  if s.passRuns c then s.passSteps c (s.cell c).queue.length else s

/-- A queue service pass that follows an event when a condition of R80 holds. -/
def State.serviceWhen (s : State) (cond : Bool) (c : CellIx) : State :=
  if cond then s.servicePass c else s

/-! ### Displacement (R75, R77) -/

/-- The last non-emergency record of a queue. -/
def State.lastOrdinary (s : State) (c : CellIx) : Option Nat :=
  (s.cell c).queue.reverse.find? fun i => !s.emergencyAt i

/-- Displacement of a queued record: EXPIRED/DISPLACED, and retirement from the queue (R75). -/
def State.displace (s : State) (i : Nat) : State :=
  (s.raiseSession i .expired .displaced).retire i

/-- Cut a queue back to a depth limit (R77): non-emergency records from the tail, until the depth is at or below the limit
or none is left. -/
def State.cutQueue (s : State) (c : CellIx) (limit fuel : Nat) : State :=
  match fuel with
  | 0 => s
  | n + 1 =>
    if (s.cell c).queue.length ≤ limit then s
    else match s.lastOrdinary c with
      | some i => (s.displace i).cutQueue c limit n
      | none => s

/-! ### The aging weight (R73) -/

/-- The virtual arrival of a QUEUED record formed again with a weight; other records as they are. -/
def Record.reweighted (r : Record) (weight : Nat) : Record :=
  match r.life with
  | .live ses (.queued arrival _ deadline) =>
    { r with life := .live ses (.queued arrival (virtualArrival arrival ses.level weight) deadline) }
  | _ => r

/-- A queue put in order again (R73): the records enqueued one after another in their enqueue order, so that records of
equal virtual arrival stand in enqueue order (R71). -/
def State.reorderQueue (s : State) (k : Cell) : Cell :=
  { k with queue := k.enqueueOrder.foldl (fun l i => queueInsert s.emergencyAt s.virtualAt i l) [] }

/-- A write of the aging weight (R73): one change over all sixteen queues. -/
def State.reweigh (s : State) (weight : Nat) : State :=
  let s1 := { s with agingWeight := weight, records := s.records.map fun (e : Nat × Record) => (e.1, e.2.reweighted weight) }
  { s1 with cells := s1.cells.map s1.reorderQueue }

end Sys2Proof.Machine
end

