-- ==== Sys2Proof/Machine/Operands.lean ====
section
/-! DEFINITION. Operand forms: frames and the frame check (10.2), the request kinds and the fields of their bodies (10.6), and when a body is malformed (R173). -/

namespace Sys2Proof.Machine

/-! ### The frame check (R165) -/

/-- Feed one bit into the 16-bit check register. -/
def crcBit (r : Half) (bit : Bool) : Half :=
  if r.msb != bit then (r <<< 1) ^^^ 0x1021#16 else r <<< 1

/-- Feed one byte, most significant bit first. -/
def crcByte (r : Half) (b : Byte) : Half :=
  [7, 6, 5, 4, 3, 2, 1, 0].foldl (fun acc k => crcBit acc (b.getLsbD k)) r

/-- The check over the covered bytes: all ones to start, no final inversion. -/
def frameCheck (bytes : List Byte) : Half :=
  bytes.foldl crcByte 0xFFFF#16

/-! ### Request kinds (10.6) -/

/-- The kind a kind byte names, if it names one. -/
def kindOfCode (b : Byte) : Option RequestKind :=
  match b.toNat with
  | 1 => some .null
  | 2 => some .admission
  | 3 => some .confirm
  | 4 => some .release
  | 5 => some .lookup
  | 6 => some .query
  | 7 => some .amend
  | 8 => some .resize
  | 9 => some .move
  | 10 => some .fetch
  | 11 => some .cellStatus
  | 12 => some .withdraw
  | _ => none

/-- The code of a kind. -/
def RequestKind.code (k : RequestKind) : Byte :=
  match k with
  | .null => 0x01
  | .admission => 0x02
  | .confirm => 0x03
  | .release => 0x04
  | .lookup => 0x05
  | .query => 0x06
  | .amend => 0x07
  | .resize => 0x08
  | .move => 0x09
  | .fetch => 0x0A
  | .cellStatus => 0x0B
  | .withdraw => 0x0C

/-- The body length of a kind. -/
def RequestKind.bodyLength (k : RequestKind) : Nat :=
  match k with
  | .null => 0
  | .admission => 11
  | .confirm => 3
  | .release => 3
  | .lookup => 6
  | .query => 3
  | .amend => 10
  | .resize => 5
  | .move => 4
  | .fetch => 1
  | .cellStatus => 1
  | .withdraw => 0

/-- The frame carries its urgent flag (10.6, flags bit 0). -/
def Request.urgentFlag (r : Request) : Bool := r.flags.getLsbD 0

/-- The frame carries its no-queue flag (flags bit 1). -/
def Request.noQueueFlag (r : Request) : Bool := r.flags.getLsbD 1

/-- The frame carries its handover flag (flags bit 2). -/
def Request.handoverFlag (r : Request) : Bool := r.flags.getLsbD 2

/-- The lane of a frame (R167): urgent for an Admit or Release whose urgent flag is set, normal for every other. -/
def Request.lane (r : Request) : Lane :=
  if r.urgentFlag && (decide (r.kind = .admission) || decide (r.kind = .release)) then .urgent else .normal

/-! ### Reading a frame (R164) -/

/-- What arrives at a port: no whole frame (log entry 12), a frame that fails one of the three conditions of R164, or a
valid frame. -/
inductive Arrival where
  | noFrame
  | bad
  | valid (r : Request)
  deriving DecidableEq, Repr

/-- Judge a whole frame, given its header and what follows it (R164): the check agrees, the kind is one of the twelve,
and the body length is that of the kind. -/
def judgeFrame (kind flags tagHigh tagLow len : Byte) (rest : List Byte) : Arrival :=
  let n := len.toNat
  let body := rest.take n
  let check := frameCheck ([kind, flags, tagHigh, tagLow, len] ++ body)
  let received := rest.getD n 0 ++ rest.getD (n + 1) 0
  match kindOfCode kind with
  | some k =>
    if check = received ∧ n = k.bodyLength then .valid (Request.mk k flags (tagHigh ++ tagLow) body) else .bad
  | none => .bad

/-- Read the bytes of a FRAME_ARRIVAL (R164). Bytes that do not begin with the delimiter belong to no frame, and bytes
that do not make up one whole frame are no arrival (log entry 12). -/
def readFrame (bytes : List Byte) : Arrival :=
  match bytes with
  | delimiter :: kind :: flags :: tagHigh :: tagLow :: len :: rest =>
    if delimiter = 0xA6#8 ∧ rest.length = len.toNat + 2 then judgeFrame kind flags tagHigh tagLow len rest else .noFrame
  | _ => .noFrame

/-! ### Fields of a body, most significant byte first (10.6) -/

/-- Body byte k as a number. -/
def Request.byteAt (r : Request) (k : Nat) : Nat := (r.body.getD k 0).toNat

/-- The two-byte field at body byte k. -/
def Request.halfAt (r : Request) (k : Nat) : Half := r.body.getD k 0 ++ r.body.getD (k + 1) 0

/-- The four-byte field at body byte k. -/
def Request.wordAt (r : Request) (k : Nat) : BitVec 32 := r.halfAt k ++ r.halfAt (k + 2)

/-- The handle at the start of a body: index (2), generation (1). -/
def Request.handle (r : Request) : Handle := Handle.mk (r.halfAt 0).toNat (r.byteAt 2)

/-- The key at the start of a body: cell (1), terminal tag (4), bearer (1). -/
def Request.key (r : Request) : Key :=
  Key.mk (Fin.ofNat 16 (r.byteAt 0)) (r.wordAt 1) (Fin.ofNat 16 (r.byteAt 5))

/-- The class field of an Admit. -/
def Request.cls (r : Request) : ClassIx := Fin.ofNat 16 (r.byteAt 6)

/-- The demand field of an Admit, as carried. -/
def Request.admitDemand (r : Request) : Nat := (r.halfAt 7).toNat

/-- The tags field of an Admit. -/
def Request.admitTags (r : Request) : Half := r.halfAt 9

/-- The operation field of an Amend. -/
def Request.operation (r : Request) : Nat := r.byteAt 3

/-- The mask of an Amend. -/
def Request.mask (r : Request) : Half := r.halfAt 4

/-- The comparand of an Amend. -/
def Request.comparand (r : Request) : Half := r.halfAt 6

/-- The value of an Amend. -/
def Request.value (r : Request) : Half := r.halfAt 8

/-- The demand field of a Resize, as carried. -/
def Request.resizeDemand (r : Request) : Nat := (r.halfAt 3).toNat

/-- The target cell of a Move. -/
def Request.target (r : Request) : CellIx := Fin.ofNat 16 (r.byteAt 3)

/-- The count of a Fetch. -/
def Request.count (r : Request) : Nat := r.byteAt 0

/-- The cell of a Cell Status. -/
def Request.statusCell (r : Request) : CellIx := Fin.ofNat 16 (r.byteAt 0)

/-- A demand field of 0 is used as 1 (R41, R103). -/
def clampDemand (d : Nat) : Nat := max 1 d

/-! ### Malformed bodies (R173) -/

/-- The handle index is above 16,383. -/
def Request.badHandle (r : Request) : Bool := decide (Config.recordCount ≤ r.handle.index)

/-- The cell or bearer of the key is above 15. -/
def Request.badKey (r : Request) : Bool := decide (15 < r.byteAt 0) || decide (15 < r.byteAt 5)

/-- A field of the body is outside its range. -/
def Request.malformed (r : Request) : Bool :=
  match r.kind with
  | .null => false
  | .admission => r.badKey || decide (15 < r.byteAt 6) || decide (4095 < r.admitDemand)
  | .confirm => r.badHandle
  | .release => r.badHandle
  | .lookup => r.badKey
  | .query => r.badHandle
  | .amend => r.badHandle || decide (r.operation < 1) || decide (4 < r.operation)
  | .resize => r.badHandle || decide (4095 < r.resizeDemand)
  | .move => r.badHandle || decide (15 < r.byteAt 3)
  | .fetch => decide (r.count < 1) || decide (8 < r.count)
  | .cellStatus => decide (15 < r.byteAt 0)
  | .withdraw => false

end Sys2Proof.Machine
end

