-- ==== Sys2Proof/Machine/Responses.lean ====
section
/-! DEFINITION. Responses: what a request is answered with (R174), and the bytes of a response frame (10.5, 10.6, R165). -/

namespace Sys2Proof.Machine

/-- What the Table Engine answers a request with, before the request's kind and tag are put to it. -/
structure Reply where
  status : Status
  zero : Bool
  isMatch : Bool
  clamped : Bool
  body : ResponseBody
  deriving DecidableEq, Repr

/-- A status with a body, all conditions clear. -/
def reply (status : Status) (body : ResponseBody) : Reply := Reply.mk status false false false body

/-- A status with an empty body, all conditions clear. -/
def bare (status : Status) : Reply := reply status .empty

/-- A reply made to carry CLAMPED when a demand field was 0 (R41, R103). -/
def Reply.clampedWhen (r : Reply) (cond : Bool) : Reply := { r with clamped := cond }

/-- Append the response to a request at a port's transmit order (R172): it carries the request's kind and tag (R174). -/
def State.answer (s : State) (p : PortIx) (req : Request) (r : Reply) : State :=
  s.modPort p fun q =>
    { q with transmit := q.transmit ++ [Response.mk req.kind req.tag r.status r.zero r.isMatch r.clamped r.body] }

/-! ### Codes (10.5, 10.6) -/

/-- The code of a status. -/
def Status.code (st : Status) : Nat :=
  match st with
  | .ok => 0
  | .queued => 1
  | .held => 2
  | .duplicate => 3
  | .stale => 4
  | .wrongState => 5
  | .noRoom => 6
  | .tooLarge => 7
  | .congested => 8
  | .cellClosed => 9
  | .cellBarred => 10
  | .cellDraining => 11
  | .notOwner => 12
  | .classClosed => 13
  | .queueFull => 14
  | .tableFull => 15
  | .notReady => 16
  | .badRequest => 17
  | .portDraining => 18
  | .busy => 19

/-- The code of a record state. -/
def RecordState.code (st : RecordState) : Nat :=
  match st with
  | .free => 0
  | .queued => 1
  | .held => 2
  | .setup => 3
  | .active => 4
  | .ceding => 5
  | .spent => 6

/-- The code of a cell state. -/
def CellState.code (st : CellState) : Nat :=
  match st with
  | .closed => 0
  | .opened => 1
  | .barred => 2
  | .draining => 3

/-- The code of a port state (11.1). -/
def PortState.code (st : PortState) : Nat :=
  match st with
  | .down => 0
  | .up => 1
  | .draining => 2

/-- The code of a notice kind about a record; LEVEL is 5. -/
def SessionNotice.code (k : SessionNotice) : Nat :=
  match k with
  | .grant => 1
  | .releaseOrder => 2
  | .forcedOut => 3
  | .expired => 4

/-- The code of a cause. -/
def Cause.code (k : Cause) : Nat :=
  match k with
  | .fromQueue => 1
  | .fromHold => 2
  | .preempted => 3
  | .graceExpired => 4
  | .drained => 5
  | .setupTimeout => 6
  | .waitTimeout => 7
  | .displaced => 8

/-- A request tag is carried by GRANT and EXPIRED alone (R151). -/
def SessionNotice.carriesTag (k : SessionNotice) : Bool :=
  match k with
  | .grant => true
  | .releaseOrder => false
  | .forcedOut => false
  | .expired => true

/-! ### Bytes, most significant first -/

/-- A number as one byte. -/
def byte1 (n : Nat) : List Byte := [BitVec.ofNat 8 n]

/-- A number as two bytes. -/
def byte2 (n : Nat) : List Byte := [BitVec.ofNat 8 (n / 256), BitVec.ofNat 8 n]

/-- A number as three bytes. -/
def byte3 (n : Nat) : List Byte := [BitVec.ofNat 8 (n / 65536), BitVec.ofNat 8 (n / 256), BitVec.ofNat 8 n]

/-- A tick or terminal tag as four bytes. -/
def byte4 (w : BitVec 32) : List Byte := byte2 (w.toNat / 65536) ++ byte2 w.toNat

/-- A handle as three bytes. -/
def handleBytes (h : Handle) : List Byte := byte2 h.index ++ byte1 h.generation

/-- A key as six bytes. -/
def keyBytes (k : Key) : List Byte := byte1 k.cell.val ++ byte4 k.terminal ++ byte1 k.bearer.val

/-- A bit in its place. -/
def bitAt (b : Bool) (k : Nat) : Nat := if b then 2 ^ k else 0

/-- A number with its unlisted upper bits, from bit n on, taken from a free value (log entry 3). -/
def withUnlisted (n listed : Nat) (free : Half) : Nat := n + free.toNat / 2 ^ listed * 2 ^ listed

/-- A notice of a Fetch response as nine bytes: kind, cause, cell, handle, request tag, level; a field its kind does not
carry reads as 0. -/
def noticeBytes (n : Notice) : List Byte :=
  match n with
  | .session kind cause h cell tag =>
    byte1 kind.code ++ byte1 cause.code ++ byte1 cell.val ++ handleBytes h
      ++ byte2 (if kind.carriesTag then tag.toNat else 0) ++ byte1 0
  | .level cell level => byte1 5 ++ byte1 0 ++ byte1 cell.val ++ handleBytes (Handle.mk 0 0) ++ byte2 0 ++ byte1 level

/-! ### The Query body (R19, 10.6) -/

/-- The admit stamp a stage has. -/
def Stage.stamp? (st : Stage) : Option Tick :=
  match st with
  | .queued _ _ _ => none
  | .held _ _ _ _ => none
  | .setup t _ => some t
  | .active t => some t
  | .ceding t _ _ => some t

/-- The arrival and virtual arrival a stage has. -/
def Stage.arrival? (st : Stage) : Option (Tick × Tick) :=
  match st with
  | .queued a v _ => some (a, v)
  | _ => none

/-- The deadline a stage has, with the code of its kind: 1 SETUP_GUARD, 2 GRACE, 3 WAIT. -/
def Stage.deadline? (st : Stage) : Option (Tick × Nat) :=
  match st with
  | .queued _ _ d => some (d, 3)
  | .held _ _ _ _ => none
  | .setup _ d => d.map fun t => (t, 1)
  | .active _ => none
  | .ceding _ _ d => some (d, 2)

/-- The beneficiary a stage has. -/
def Stage.beneficiary? (st : Stage) : Option Handle :=
  match st with
  | .ceding _ b _ => b
  | _ => none

/-- The HELD fields a stage has: victims, need, headroom reserved, collected. -/
def Stage.held? (st : Stage) : Option (List Handle × Nat × Nat × Nat) :=
  match st with
  | .held v n h c => some (v, n, h, c)
  | _ => none

/-- The four victim slots; slots beyond the count read as 0. -/
def victimBytes (l : List Handle) : List Byte :=
  ((List.range 4).map fun k => handleBytes (l.getD k (Handle.mk 0 0))).flatten

/-- The presence field of a Query: one bit for each group of fields. -/
def presenceBits (st : Stage) (pending : Option PendingNotice) : Nat :=
  bitAt true 0 + bitAt st.stamp?.isSome 1 + bitAt st.arrival?.isSome 2 + bitAt st.deadline?.isSome 3
    + bitAt st.beneficiary?.isSome 4 + bitAt st.held?.isSome 5 + bitAt pending.isSome 6

/-- The flags byte of a Query: emergency, vulnerable, handover, from bit 0 up (log entry 17). -/
def sessionFlags (ses : Session) : Nat :=
  bitAt ses.emergency 0 + bitAt ses.vulnerable 1 + bitAt ses.handover 2

/-- The fields of a live record in a Query body, in their order; the unlisted bits of the flags byte are free. -/
def sessionBytes (ses : Session) (free : Half) : List Byte :=
  keyBytes ses.key ++ byte1 ses.cls.val ++ byte1 ses.level ++ byte1 (withUnlisted (sessionFlags ses) 3 free)
    ++ byte2 ses.grace ++ byte2 ses.setupGuard ++ byte2 ses.demand ++ byte2 ses.tags.toNat ++ byte2 ses.requestTag.toNat

/-- The stage's fields in a Query body, in their order; a field of an absent group reads as 0. -/
def stageBytes (st : Stage) : List Byte :=
  let arrival := st.arrival?.getD (0, 0)
  let deadline := st.deadline?.getD (0, 0)
  let held := st.held?.getD ([], 0, 0, 0)
  byte4 (st.stamp?.getD 0) ++ byte4 arrival.1 ++ byte4 arrival.2 ++ byte4 deadline.1 ++ byte1 deadline.2
    ++ handleBytes (st.beneficiary?.getD (Handle.mk 0 0)) ++ byte1 held.1.length ++ victimBytes held.1
    ++ byte3 held.2.1 ++ byte2 held.2.2.1 ++ byte3 held.2.2.2

/-- The pending kind and cause in a Query body. -/
def pendingBytes (n : Option PendingNotice) : List Byte :=
  match n with
  | some n => byte1 n.kind.code ++ byte1 n.cause.code
  | none => byte1 0 ++ byte1 0

/-- The 68 bytes of a Query body. -/
def queryBytes (index : Nat) (r : Record) (free1 free2 : Half) : List Byte :=
  let headBytes := byte2 index ++ byte1 r.generation ++ byte1 r.state.code
  match r.life with
  | .live ses st =>
    headBytes ++ byte2 (withUnlisted (presenceBits st r.pending) 7 free1) ++ sessionBytes ses free2 ++ stageBytes st
      ++ pendingBytes r.pending
  | _ => headBytes ++ List.replicate 64 0

/-! ### Bodies and frames -/

/-- The bytes of a response body (10.6). -/
def bodyBytes (b : ResponseBody) (free1 free2 : Half) : List Byte :=
  match b with
  | .empty => []
  | .handle h => handleBytes h
  | .handleState h st => handleBytes h ++ byte1 st.code
  | .lookup h st cls level demand => handleBytes h ++ byte1 st.code ++ byte1 cls.val ++ byte1 level ++ byte2 demand
  | .query index r => queryBytes index r free1 free2
  | .amend old new => byte2 old.toNat ++ byte2 new.toNat
  | .demand d => byte2 d
  | .move h target level => handleBytes h ++ byte1 target.val ++ byte1 level
  | .fetch notices ringCount flag =>
    byte1 notices.length ++ byte2 ringCount ++ byte1 (bitAt flag 0) ++ (notices.map noticeBytes).flatten
  | .cellStatus st k f a c r u o level depth sessions =>
    byte1 st.code ++ byte2 k ++ byte2 f ++ byte2 a ++ byte2 c ++ byte2 r ++ byte2 u ++ byte2 o ++ byte1 level
      ++ byte1 depth ++ byte2 sessions

/-- The conditions byte: ZERO, MATCH, CLAMPED from bit 0 up (10.6); the unlisted bits are free (log entry 3). -/
def conditionsByte (r : Response) (free : Half) : List Byte :=
  byte1 (withUnlisted (bitAt r.zero 0 + bitAt r.isMatch 1 + bitAt r.clamped 2) 3 free)

/-- The header and body of a response frame (10.6): everything the check covers. -/
def Response.covered (r : Response) (free0 free1 free2 : Half) : List Byte :=
  let body := bodyBytes r.body free1 free2
  [r.kind.code ||| 0x80#8] ++ byte1 r.status.code ++ conditionsByte r free0 ++ byte2 r.tag.toNat ++ byte1 body.length ++ body

/-- The whole response frame: the delimiter, the header and body, and the check, most significant byte first (R165, R174). -/
def Response.frame (r : Response) (free0 free1 free2 : Half) : List Byte :=
  let covered := r.covered free0 free1 free2
  [0xA6#8] ++ covered ++ byte2 (frameCheck covered).toNat

end Sys2Proof.Machine
end

