-- ==== Sys2Proof/Machine/Engine.lean ====
section
/-! DEFINITION. The arbiter and the Table Engine's side of the request link (10.3, 10.4), and what the requests share: handle resolution, newcomers, the change a record's state requires before retirement, entry to DRAINING. -/

namespace Sys2Proof.Machine

/-! ### The arbiter (R169) -/

/-- The order in which the arbiter looks at the ports after the one it served last. -/
def laneOrder (last : PortIx) : List PortIx := [last + 1, last + 2, last + 3, last]

/-- The requests waiting in a lane of a port. -/
def Port.lane (q : Port) (l : Lane) : List Request :=
  match l with
  | .urgent => q.urgentLane
  | .normal => q.normalLane

/-- Give a lane its contents. -/
def Port.setLane (q : Port) (l : Lane) (rs : List Request) : Port :=
  match l with
  | .urgent => { q with urgentLane := rs }
  | .normal => { q with normalLane := rs }

/-- The first port of a list whose lane holds a request, with that lane's head. -/
def State.firstWaiting (s : State) (l : Lane) (ports : List PortIx) : Option (PortIx × Request) :=
  match ports with
  | [] => none
  | p :: rest =>
    match (s.port p).lane l with
    | r :: _ => some (p, r)
    | [] => s.firstWaiting l rest

/-- The request the arbiter hands over next: an urgent lane first, round-robin after the urgent pointer; otherwise a normal
lane, round-robin after the normal pointer (R169). -/
def State.arbiterChoice (s : State) : Option (Lane × PortIx × Request) :=
  match s.firstWaiting .urgent (laneOrder s.urgentLast) with
  | some (p, r) => some (.urgent, p, r)
  | none => (s.firstWaiting .normal (laneOrder s.normalLast)).map fun x => (.normal, x.1, x.2)

/-- The pointer of a kind of lane moves to the port served (R169). -/
def State.setPointer (s : State) (l : Lane) (p : PortIx) : State :=
  match l with
  | .urgent => { s with urgentLast := p }
  | .normal => { s with normalLast := p }

/-- Serving a lane removes its head and moves the pointer (R169). -/
def State.handOver (s : State) (l : Lane) (p : PortIx) : State :=
  (s.setPointer l p).modPort p fun q => q.setLane l (q.lane l).tail

/-- A request command: when the request that the arbiter hands over is one the command carries out, the Table Engine takes
it; otherwise the command does not happen and nothing changes (log entry 6). -/
def State.serve (s : State) (wanted : Request → Bool) (carry : PortIx → Lane → Request → State → State) :
    Host.Outcome State Fault Refusal :=
  match s.arbiterChoice with
  | some (l, p, r) => if wanted r then .next (carry p l r (s.handOver l p)) else .next s
  | none => .next s

/-! ### Checks that precede every request (R6, R171, R173) -/

/-- A request taken by the Table Engine: NOT_READY while the table is closed, BAD_REQUEST for a malformed body, otherwise
its own rule; the response is handed to the Client Link when the event is complete (R171, R172). -/
def State.engine (s : State) (p : PortIx) (r : Request) (bad : Bool) (act : State → State × Reply) : State :=
  if s.tableOpen then
    if bad then s.answer p r (bare .badRequest)
    else (act s).1.answer p r (act s).2
  else s.answer p r (bare .notReady)

/-- Handle resolution (R6): STALE when the handle names no live record of its generation, NOT_OWNER when the port does not
own the record's cell, otherwise the request's own rule on the record. -/
def State.withRecord (s : State) (p : PortIx) (r : Request) (act : Session → Stage → State × Reply) : State × Reply :=
  match s.liveAt r.handle.index with
  | some (ses, st) =>
    if r.handle.generation ≠ 0 ∧ (s.record r.handle.index).generation = r.handle.generation then
      if (s.cell ses.key.cell).owner = p then act ses st else (s, bare .notOwner)
    else (s, bare .stale)
  | none => (s, bare .stale)

/-- WRONG_STATE, with the record's handle and the state the request found it in (R88). -/
def State.wrongState (s : State) (r : Request) : State × Reply :=
  (s, reply .wrongState (.handleState r.handle (s.record r.handle.index).state))

/-- DUPLICATE, with the handle and state of the record that holds the key (R17, R107). -/
def State.duplicate (s : State) (h : Handle) : Reply :=
  reply .duplicate (.handleState h (s.record h.index).state)

/-- The answer of the cell state check to a newcomer or a Move (R26): none when the cell takes it. -/
def cellRefusal (st : CellState) (emergency : Bool) : Option Status :=
  match st with
  | .closed => some .cellClosed
  | .draining => some .cellDraining
  | .barred => if emergency then none else some .cellBarred
  | .opened => none

/-! ### Newcomers (R3, R8, R10, R16) -/

/-- The session that an Admit creates (R3): the Admit's own fields, and the copies from its class entry. -/
def newSession (k : ServiceClass) (r : Request) : Session where
  key := r.key
  cls := r.cls
  level := k.admitLevel r.handoverFlag
  emergency := k.emergency
  vulnerable := k.vulnerableInUse
  grace := max 1 k.grace
  setupGuard := k.setupGuard
  demand := clampDemand r.admitDemand
  tags := r.admitTags
  requestTag := r.tag
  handover := r.handoverFlag

/-- The record that the next newcomer takes: the free list's head (R8). -/
def State.nextFree (s : State) : Nat := s.freeList.headD 0

/-- Take the free list's head for a live record (R8, R16): it leaves the list, keeps its generation, and its directory entry
is made. A take that brings the free count from 65 to 64 raises RESERVE (R10). -/
def State.takeRecord (s : State) (ses : Session) (st : Stage) : State :=
  match s.freeList with
  | [] => s
  | i :: rest =>
    let s1 := { s with freeList := rest }
    let s2 := (s1.setLive i ses st).addKey ses.key (s.handleOf i)
    if rest.length = Config.reserveSize then s2.raiseEvent reserveEvent else s2

/-- Plain admission of a newcomer (R48). -/
def State.admitPlain (s : State) (ses : Session) : State :=
  let c := ses.key.cell
  ((s.takeRecord ses (setupStage s.tick ses)).countSetup c s.nextFree ses).recompute c

/-- Admission of a newcomer by a preemption decision (R52, R53). -/
def State.admitHeld (s : State) (ses : Session) (victims : List Nat) : State :=
  let c := ses.key.cell
  let stage := s.heldStage c ses victims
  let reserved := (s.cell c).headroom ses.emergency
  (((s.takeVictims (s.handleOf s.nextFree) c victims).takeRecord ses stage).addR c reserved).recompute c

/-- The stage of a newcomer that is enqueued (R74). -/
def State.queuedStage (s : State) (ses : Session) : Stage :=
  .queued s.tick (virtualArrival s.tick ses.level s.agingWeight) (after s.tick (max 1 (s.classAt ses.cls).maxWait))

/-- Enqueue a newcomer (R74): its record is taken, and it is placed in its cell's queue. -/
def State.enqueue (s : State) (ses : Session) : State :=
  let i := s.nextFree
  let s1 := s.takeRecord ses (s.queuedStage ses)
  s1.modCell ses.key.cell fun k =>
    { k with
      queue := queueInsert s1.emergencyAt s1.virtualAt i k.queue
      enqueueOrder := k.enqueueOrder ++ [i] }

/-! ### What retirement paths share -/

/-- The change that belongs to a record's state before its retirement (R11, R93 to R96, R143): nothing for QUEUED, the
withdrawal for HELD, A −= d for SETUP and ACTIVE, the victim exit for CEDING, each with its recompute. -/
def State.giveUp (s : State) (i : Nat) (ses : Session) (st : Stage) : State :=
  match st with
  | .queued _ _ _ => s
  | .held victims _ reserved collected => s.withdrawHeld ses victims reserved collected
  | .setup _ _ => (s.subA ses.key.cell ses.demand).recompute ses.key.cell
  | .active _ => (s.subA ses.key.cell ses.demand).recompute ses.key.cell
  | .ceding _ beneficiary _ => s.victimExit i ses beneficiary

/-- A queue service pass follows the retirement of a record (R80): from SETUP or ACTIVE; from HELD or CEDING when U fell;
from QUEUED when the head was removed. `s` is the state before the path, `s1` the state after its change. -/
def State.startsPass (s s1 : State) (i : Nat) (ses : Session) (st : Stage) : Bool :=
  match st with
  | .queued _ _ _ => s.isHead ses.key.cell i
  | .held _ _ _ _ => decide ((s1.cell ses.key.cell).use < (s.cell ses.key.cell).use)
  | .setup _ _ => true
  | .active _ => true
  | .ceding _ _ _ => decide ((s1.cell ses.key.cell).use < (s.cell ses.key.cell).use)

/-! ### The choice of a drain (R139, R140) -/

/-- The pending port drain of lowest number. -/
def State.pendingPort (s : State) : Option PortIx :=
  (List.finRange 4).find? fun p => (s.port p).drainFlag

/-- The pending cell drain of lowest number. -/
def State.pendingCell (s : State) : Option CellIx :=
  (List.finRange 16).find? fun c => (s.cell c).drainFlag

/-- The pending drain of the numbers (R140): a port drain when there is one, a cell drain otherwise. -/
def State.firstPending (s : State) : Option Job :=
  match s.pendingPort with
  | some p => some (.portDrain p)
  | none => s.pendingCell.map Job.cellDrain

/-- The drain that an idle engine starts next: the one it has chosen, or the first by number. -/
def State.nextJob (s : State) : Option Job := s.chosen.or s.firstPending

/-- The engine looks for a job to start (R140), when it has become idle or a flag has been set: an idle one chooses, and a
choice it has made stands until its start; one with a job in progress chooses nothing. -/
def State.chooseJob (s : State) : State :=
  { s with chosen := if s.job = none then s.nextJob else none }

/-- Entry of a port to DRAINING, by Withdraw or supervision expiry (R147, R139, R140): the waiting requests are answered
PORT_DRAINING, urgent lane first; ring and backlog are cleared; the port's drain flag is set, and an idle engine looks for a
job. -/
def State.enterDraining (s : State) (p : PortIx) : State :=
  let waiting := (s.port p).urgentLane ++ (s.port p).normalLane
  let answers := waiting.map fun r => Response.mk r.kind r.tag .portDraining false false false .empty
  let s1 := s.modPort p fun q => { q with urgentLane := [], normalLane := [], transmit := q.transmit ++ answers }
  ((s1.clearNotices p).modPort p fun q => { q with state := .draining, drainFlag := true }).chooseJob

end Sys2Proof.Machine
end

