-- ==== Sys2Proof/Machine/Drains.lean ====
section
/-! DEFINITION. The meanings of the Drain Engine's commands (chapter 8). -/

namespace Sys2Proof.Machine

/-! ### The set of a job and its order (R141, R142) -/

/-- The live records of a cell that stand in a group, ascending index. -/
def State.groupOf (s : State) (c : CellIx) (want : Stage → Bool) : List Nat :=
  (s.liveIn c).filter fun i =>
    match s.liveAt i with
    | some (_, st) => want st
    | none => false

/-- A stage of group 2. -/
def Stage.isHeld (st : Stage) : Bool :=
  match st with
  | .held _ _ _ _ => true
  | _ => false

/-- A stage of group 3. -/
def Stage.isCeding (st : Stage) : Bool :=
  match st with
  | .ceding _ _ _ => true
  | _ => false

/-- A stage of group 4. -/
def Stage.isAdmitted (st : Stage) : Bool :=
  match st with
  | .setup _ _ => true
  | .active _ => true
  | _ => false

/-- The admit stamp of a live record; 0 for any other. -/
def State.stampAt (s : State) (i : Nat) : Tick :=
  match s.liveAt i with
  | some (_, st) => st.stamp
  | none => 0

/-- In group 4, i is drained before j: lower level; then smaller age; then higher index (R142). -/
def State.drainsBefore (s : State) (i j : Nat) : Bool :=
  decide (s.levelAt i < s.levelAt j)
    || (decide (s.levelAt i = s.levelAt j)
      && (decide (age s.tick (s.stampAt i) < age s.tick (s.stampAt j))
        || (decide (age s.tick (s.stampAt i) = age s.tick (s.stampAt j)) && decide (j < i))))

/-- The first of a list by an order. -/
def firstBy (before : Nat → Nat → Bool) (l : List Nat) : Option Nat :=
  match l with
  | [] => none
  | i :: rest =>
    match firstBy before rest with
    | none => some i
    | some j => if before j i then some j else some i

/-- The record that a drain takes next in a cell (R142): the queue from the tail, then HELD, then CEDING, then SETUP and
ACTIVE. -/
def State.nextToDrain (s : State) (c : CellIx) : Option Nat :=
  match (s.cell c).queue.getLast? with
  | some i => some i
  | none =>
    match s.groupOf c Stage.isHeld with
    | i :: _ => some i
    | [] =>
      match s.groupOf c Stage.isCeding with
      | i :: _ => some i
      | [] => firstBy s.drainsBefore (s.groupOf c Stage.isAdmitted)

/-- The cells a port owns, ascending. -/
def State.cellsOf (s : State) (p : PortIx) : List CellIx :=
  (List.finRange 16).filter fun c => decide ((s.cell c).owner = p)

/-- The record that a port drain takes next (R141): the first of the first of its cells that holds one. -/
def State.nextOfPort (s : State) (p : PortIx) : Option Nat :=
  (s.cellsOf p).findSome? s.nextToDrain

/-- A port's set is empty: no cell it owns holds a live record. -/
def State.portEmpty (s : State) (p : PortIx) : Bool :=
  (s.cellsOf p).all fun c => (s.liveIn c).isEmpty

/-! ### Steps -/

/-- The notice a cell drain raises about a record, by its state (R143). -/
def Stage.drainNotice (st : Stage) : SessionNotice :=
  match st with
  | .queued _ _ _ => .expired
  | .held _ _ _ _ => .expired
  | .setup _ _ => .forcedOut
  | .active _ => .forcedOut
  | .ceding _ _ _ => .forcedOut

/-- A drain retires a record (R143, R148): its notice when the drain raises one, the change of its state, retirement. No
queue service follows. -/
def State.drainRecord (s : State) (notify : Bool) (i : Nat) : State :=
  match s.liveAt i with
  | some (ses, st) =>
    let s1 := if notify then s.raiseSession i st.drainNotice .drained else s
    (s1.giveUp i ses st).retire i
  | none => s

/-- The job in progress ends (R140): DRAIN_DONE, and the idle engine looks for the next one. -/
def State.endJob (s : State) : State :=
  (State.chooseJob { s with job := none }).raiseEvent drainDoneEvent

/-- Completion of a cell drain (R144): the cell goes to CLOSED, the job ends, DRAIN_DONE. -/
def State.completeCellDrain (s : State) (c : CellIx) : State :=
  (s.closeCell c).endJob

/-- Completion of a port drain (R148): the port goes to DOWN, the job ends, DRAIN_DONE. -/
def State.completePortDrain (s : State) (p : PortIx) : State :=
  (s.modPort p fun q => { q with state := .down }).endJob

/-- A cell drain completes when its cell holds no live record (R144). -/
def State.settleCellDrain (s : State) (c : CellIx) : State :=
  if (s.liveIn c).isEmpty then s.completeCellDrain c else s

/-- A port drain completes when no cell of the port holds a live record (R148). -/
def State.settlePortDrain (s : State) (p : PortIx) : State :=
  if s.portEmpty p then s.completePortDrain p else s

/-- CELL_DRAIN_STEP (R141, R143): the cell drain in progress retires the first record of its set, and completes when the
set is empty then, or was found empty. -/
def execCellDrainStep (s : State) : Host.Outcome State Fault Refusal :=
  match s.job with
  | some (.cellDrain c) =>
    match s.nextToDrain c with
    | some i => .next ((s.drainRecord true i).settleCellDrain c)
    | none => .next (s.settleCellDrain c)
  | _ => .next s

/-- PORT_DRAIN_STEP (R141, R148): the port drain in progress retires the first record of its set without a notice, and
completes when the set is empty then, or was found empty. -/
def execPortDrainStep (s : State) : Host.Outcome State Fault Refusal :=
  match s.job with
  | some (.portDrain p) =>
    match s.nextOfPort p with
    | some i => .next ((s.drainRecord false i).settlePortDrain p)
    | none => .next (s.settlePortDrain p)
  | _ => .next s

/-! ### Starting a job (R140) -/

/-- A job starts (R140): its flag is cleared, it is the job in progress, and one with nothing to retire ends at once. -/
def State.startJob (s : State) (j : Job) : State :=
  match j with
  | .portDrain p =>
    ({ s.modPort p fun q => { q with drainFlag := false } with job := some j, chosen := none }).settlePortDrain p
  | .cellDrain c =>
    ({ s.modCell c fun k => { k with drainFlag := false } with job := some j, chosen := none }).settleCellDrain c

/-- An idle engine with a pending drain starts it. -/
def State.startDrain (s : State) : State :=
  match s.job, s.nextJob with
  | none, some j => s.startJob j
  | _, _ => s

/-- DRAIN_JOB_START (R140): the idle engine starts the drain it has chosen: the pending port drain of lowest number, otherwise
the pending cell drain of lowest number, as the flags stood when it looked (log entry 16). -/
def execDrainJobStart (s : State) : Host.Outcome State Fault Refusal :=
  .next s.startDrain

/-- Drain busy of the table status (R139): a job is in progress or any flag is set. -/
def State.drainBusy (s : State) : Bool :=
  s.job.isSome || s.pendingPort.isSome || s.pendingCell.isSome

end Sys2Proof.Machine
end

