-- ==== Sys2Proof/Machine/Deadlines.lean ====
section
/-! DEFINITION. The meanings of the timed commands: the tick, the expiries of record deadlines and of port supervision (chapter 6), and the end of an attention pulse (R161). -/

namespace Sys2Proof.Machine

/-! ### The expiries, each as one event -/

/-- The expiry of a SETUP_GUARD deadline (R117): A −= d with its recompute, EXPIRED/SETUP_TIMEOUT, retirement, pass. -/
def State.expireSetup (s : State) (i : Nat) (ses : Session) : State :=
  let c := ses.key.cell
  let s1 := (s.subA c ses.demand).recompute c
  ((s1.raiseSession i .expired .setupTimeout).retire i).servicePass c

/-- The SETUP_GUARD deadline of a record, if the tick has reached it (R116). -/
def State.atSetupGuard (s : State) (i : Nat) : State :=
  match s.liveAt i with
  | some (ses, .setup _ (some deadline)) => if deadline = s.tick then s.expireSetup i ses else s
  | _ => s

/-- SETUP_GUARD_EXPIRY (R117): taken when the tick has reached the deadline of a SETUP record; otherwise there is no expiry
and nothing changes (R115, R116; log entry 8). -/
def execSetupGuardExpiry (i : Nat) (s : State) : Host.Outcome State Fault Refusal :=
  .next (s.atSetupGuard i)

/-- The expiry of a GRACE deadline (R119): FORCED_OUT/GRACE_EXPIRED, the victim exit with any promotion, retirement, and a
pass when U has fallen. -/
def State.expireGrace (s : State) (i : Nat) (ses : Session) (beneficiary : Option Handle) : State :=
  let c := ses.key.cell
  let s1 := (s.raiseSession i .forcedOut .graceExpired).victimExit i ses beneficiary
  (s1.retire i).serviceWhen (decide ((s1.cell c).use < (s.cell c).use)) c

/-- The GRACE deadline of a record, if the tick has reached it (R116). -/
def State.atGrace (s : State) (i : Nat) : State :=
  match s.liveAt i with
  | some (ses, .ceding _ beneficiary deadline) => if deadline = s.tick then s.expireGrace i ses beneficiary else s
  | _ => s

/-- GRACE_EXPIRY (R119): taken when the tick has reached the deadline of a CEDING record. -/
def execGraceExpiry (i : Nat) (s : State) : Host.Outcome State Fault Refusal :=
  .next (s.atGrace i)

/-- The expiry of a WAIT deadline (R121): EXPIRED/WAIT_TIMEOUT, retirement from the queue, and a pass when the head was
removed. -/
def State.expireWait (s : State) (i : Nat) (ses : Session) : State :=
  let c := ses.key.cell
  ((s.raiseSession i .expired .waitTimeout).retire i).serviceWhen (s.isHead c i) c

/-- The WAIT deadline of a record, if the tick has reached it (R116). -/
def State.atWait (s : State) (i : Nat) : State :=
  match s.liveAt i with
  | some (ses, .queued _ _ deadline) => if deadline = s.tick then s.expireWait i ses else s
  | _ => s

/-- WAIT_EXPIRY (R121): taken when the tick has reached the deadline of a QUEUED record. -/
def execWaitExpiry (i : Nat) (s : State) : Host.Outcome State Fault Refusal :=
  .next (s.atWait i)

/-- A port is watched (R124): it is UP and S is nonzero. -/
def State.watched (s : State) (p : PortIx) : Bool :=
  decide ((s.port p).state = .up) && decide (s.supervision ≠ 0)

/-- Supervision is due for a port (R124): it is watched, and the tick is its timestamp plus S, where its age is S. -/
def State.supervisionDue (s : State) (p : PortIx) : Bool :=
  s.watched p && decide (age s.tick (s.port p).timestamp = s.supervision)

/-- Supervision expires for a port (R124): entry to DRAINING with its drain flag, and PORT_DOWN. -/
def State.expirePort (s : State) (p : PortIx) : State :=
  (s.enterDraining p).raiseEvent (portDownEvent p)

/-- The supervision of a port, if its age has reached S. -/
def State.atSupervision (s : State) (p : PortIx) : State :=
  if s.supervisionDue p then s.expirePort p else s

/-- SUPERVISION_EXPIRY (R124): taken at the tick equal to the timestamp of an UP port plus a nonzero S. -/
def execSupervisionExpiry (p : PortIx) (s : State) : Host.Outcome State Fault Refusal :=
  .next (s.atSupervision p)

/-- The pulse of a port, if the tick has reached its start plus its width (R161). -/
def State.atPulseEnd (s : State) (p : PortIx) : State :=
  if (s.port p).pulseDue s.tick then s.modPort p Port.endPulse else s

/-- PULSE_END (R161): the line is deasserted when the tick has reached the pulse's start plus its width. -/
def execPulseEnd (p : PortIx) (s : State) : Host.Outcome State Fault Refusal :=
  .next (s.atPulseEnd p)

/-! ### What falls due at a tick (R116, R124, R161) -/

/-- An event that falls due at a tick: each is the event of the command of its name. -/
inductive Expiry where
  | setupGuard (i : Nat)
  | grace (i : Nat)
  | wait (i : Nat)
  | supervision (p : PortIx)
  | pulse (p : PortIx)
  deriving DecidableEq, Repr

/-- Take an event that fell due, if it is still due: one taken before it may have cancelled it (R116). -/
def State.take (s : State) (e : Expiry) : State :=
  match e with
  | .setupGuard i => s.atSetupGuard i
  | .grace i => s.atGrace i
  | .wait i => s.atWait i
  | .supervision p => s.atSupervision p
  | .pulse p => s.atPulseEnd p

/-- The expiry of a record that is due at the present tick. -/
def State.dueRecord (s : State) (i : Nat) : Option Expiry :=
  match s.liveAt i with
  | some (_, .setup _ (some deadline)) => if deadline = s.tick then some (.setupGuard i) else none
  | some (_, .ceding _ _ deadline) => if deadline = s.tick then some (.grace i) else none
  | some (_, .queued _ _ deadline) => if deadline = s.tick then some (.wait i) else none
  | _ => none

/-- Everything that is due at the present tick. -/
def State.due (s : State) : List Expiry :=
  (s.records.map Prod.fst).filterMap s.dueRecord
    ++ ((List.finRange 4).filter s.supervisionDue).map Expiry.supervision
    ++ ((List.finRange 4).filter fun p => (s.port p).pulseDue s.tick).map Expiry.pulse

/-- An order of a list that the manual leaves open (log entries 4 and 8): each entry is put at a free place among those after
it, so that every order is possible. A list of one has one order. -/
def openOrder {α : Type} (draws : Nat) (l : List α) : List α :=
  match l with
  | [] => []
  | [x] => [x]
  | x :: y :: rest => (openOrder (draws + 1) (y :: rest)).insertIdx (Config.openChoice draws % (rest.length + 2)) x

/-- Start the chosen drain, and those chosen as drains with nothing to retire end at once (R140). -/
def State.startDrains (s : State) (fuel : Nat) : State :=
  match fuel with
  | 0 => s
  | n + 1 => s.startDrain.startDrains n

/-- TICK (R113): the tick advances by one, modulo 2^32. What is due at the tick it leaves and was not taken yet is taken
first, since an expiry is taken while the tick stands at it (R116, R124, R161), one after another in either order; and a drain
whose start is still to come starts, since it starts at once (R124, R140; log entries 8 and 16). There are at most twenty
drains to start. -/
def execTick (s : State) : Host.Outcome State Fault Refusal :=
  let taken := ((openOrder s.freeDraws s.due).foldl State.take s).startDrains 20
  .next { taken with tick := s.tick + 1, freeDraws := s.freeDraws + s.due.length }

end Sys2Proof.Machine
end

