-- ==== Sys2Proof/Machine/Link.lean ====
section
/-! DEFINITION. The meanings of the link's own commands: the arrival of a frame (10.1 to 10.3) and the sending of a response (10.4). -/

namespace Sys2Proof.Machine

/-- How many requests a lane holds at most (R167). -/
def Lane.size (l : Lane) : Nat :=
  match l with
  | .urgent => Config.urgentLaneSize
  | .normal => Config.normalLaneSize

/-- A discarded frame (R166): the error count rises by one, up to 65,535, and LINK_ERROR is raised. -/
def State.discardFrame (s : State) (p : PortIx) : State :=
  (s.modPort p fun q => { q with errorCount := min 65535 (q.errorCount + 1) }).raiseEvent (linkErrorEvent p)

/-- Placement of a valid frame at an UP port (R167): at the tail of its lane, or answered BUSY when the lane is full. -/
def State.placeRequest (s : State) (p : PortIx) (r : Request) : State :=
  if ((s.port p).lane r.lane).length < r.lane.size then
    s.modPort p fun q => q.setLane r.lane (q.lane r.lane ++ [r])
  else s.answer p r (bare .busy)

/-- A valid frame (R163, R123, R167): at a DOWN or UP port the port is UP, its supervision timestamp is now, and the frame
is placed; at a DRAINING port it is answered PORT_DRAINING. -/
def State.acceptFrame (s : State) (p : PortIx) (r : Request) : State :=
  if (s.port p).state = .draining then s.answer p r (bare .portDraining)
  else (s.modPort p fun q => { q with state := .up, timestamp := s.tick }).placeRequest p r

/-- FRAME_ARRIVAL (R164). -/
def execFrameArrival (p : PortIx) (bytes : List Byte) (s : State) : Host.Outcome State Fault Refusal :=
  match readFrame bytes with
  | .noFrame => .next s
  | .bad => .next (s.discardFrame p)
  | .valid r => .next (s.acceptFrame p r)

/-- Draw one free value for bits the manual lists no meaning for (log entry 3). -/
def State.drawBits (s : State) (n : Nat) : Half := Config.unlistedBits (s.freeDraws + n)

/-- RESPONSE_SENT (R172): the head of the transmit order leaves it and its frame is driven on the link. -/
def execResponseSent (p : PortIx) (s : State) : Host.Outcome State Fault Refusal :=
  match (s.port p).transmit with
  | [] => .next s
  | r :: rest =>
    let bytes := r.frame (s.drawBits 0) (s.drawBits 1) (s.drawBits 2)
    let s1 := s.modPort p fun q => { q with transmit := rest, sent := bytes }
    .next { s1 with freeDraws := s.freeDraws + 3 }

end Sys2Proof.Machine
end

