-- ==== Sys2Proof/Machine/Window.lean ====
section
/-! DEFINITION. The register window (11.1): which field an address names, what a field reads as, what a write of a field stores (R175, R176, R23, R32). -/

namespace Sys2Proof.Machine

/-- How an address names a field: the whole of a one-byte field, or the more or less significant byte of a two-byte one. -/
inductive Part where
  | whole
  | high
  | low
  deriving DecidableEq, Repr

/-! ### Addresses -/

/-- The fields below 0x0030. -/
def locateGlobal (n : Nat) : Option (Field × Part) :=
  match n with
  | 0x00 => some (.vendorCode, .whole)
  | 0x01 => some (.partCode, .high)
  | 0x02 => some (.partCode, .low)
  | 0x03 => some (.revision, .whole)
  | 0x10 => some (.tableControl, .whole)
  | 0x11 => some (.tableStatus, .whole)
  | 0x12 => some (.freeCount, .high)
  | 0x13 => some (.freeCount, .low)
  | 0x14 => some (.queuedCount, .high)
  | 0x15 => some (.queuedCount, .low)
  | 0x18 => some (.eventRaw, .high)
  | 0x19 => some (.eventRaw, .low)
  | 0x1A => some (.eventEnable, .high)
  | 0x1B => some (.eventEnable, .low)
  | 0x20 => some (.agingWeight, .high)
  | 0x21 => some (.agingWeight, .low)
  | 0x22 => some (.supervision, .high)
  | 0x23 => some (.supervision, .low)
  | _ => none

/-- The fields of a port, by offset in its six bytes. -/
def locatePort (p : PortIx) (offset : Nat) : Option (Field × Part) :=
  match offset with
  | 0 => some (.ringSize p, .whole)
  | 1 => some (.attention p, .whole)
  | 2 => some (.pulseWidth p, .whole)
  | 3 => some (.portState p, .whole)
  | 4 => some (.errorCount p, .high)
  | 5 => some (.errorCount p, .low)
  | _ => none

/-- The fields of a cell, by offset in its 32 bytes. -/
def locateCell (c : CellIx) (offset : Nat) : Option (Field × Part) :=
  match offset with
  | 0x00 => some (.cellState c, .whole)
  | 0x01 => some (.owner c, .whole)
  | 0x02 => some (.capacity c, .high)
  | 0x03 => some (.capacity c, .low)
  | 0x04 => some (.floor c, .high)
  | 0x05 => some (.floor c, .low)
  | 0x06 => some (.threshold1 c, .high)
  | 0x07 => some (.threshold1 c, .low)
  | 0x08 => some (.threshold2 c, .high)
  | 0x09 => some (.threshold2 c, .low)
  | 0x0A => some (.threshold3 c, .high)
  | 0x0B => some (.threshold3 c, .low)
  | 0x0C => some (.hysteresis c, .whole)
  | 0x0D => some (.depthLimit c, .whole)
  | 0x0E => some (.countA c, .high)
  | 0x0F => some (.countA c, .low)
  | 0x10 => some (.countC c, .high)
  | 0x11 => some (.countC c, .low)
  | 0x12 => some (.countR c, .high)
  | 0x13 => some (.countR c, .low)
  | 0x14 => some (.occupancy c, .high)
  | 0x15 => some (.occupancy c, .low)
  | 0x16 => some (.level c, .whole)
  | 0x17 => some (.queueDepth c, .whole)
  | 0x18 => some (.cellCommand c, .whole)
  | 0x19 => some (.commandResult c, .whole)
  | _ => none

/-- The fields of a class, by offset in its 16 bytes. -/
def locateClass (k : ClassIx) (offset : Nat) : Option (Field × Part) :=
  match offset with
  | 0 => some (.classLevel k, .whole)
  | 1 => some (.classFlags k, .whole)
  | 2 => some (.classBoost k, .whole)
  | 3 => some (.classRefuse k, .whole)
  | 4 => some (.classGuard k, .high)
  | 5 => some (.classGuard k, .low)
  | 6 => some (.classGrace k, .high)
  | 7 => some (.classGrace k, .low)
  | 8 => some (.classMaxWait k, .high)
  | 9 => some (.classMaxWait k, .low)
  | _ => none

/-- The field that an address of the window names, if it names one (11.1). -/
def locate (a : BitVec 16) : Option (Field × Part) :=
  let n := a.toNat
  if n < 0x30 then locateGlobal n
  else if n < 0x48 then locatePort (Fin.ofNat 4 ((n - 0x30) / 6)) ((n - 0x30) % 6)
  else if 0x100 ≤ n ∧ n < 0x300 then locateCell (Fin.ofNat 16 ((n - 0x100) / 32)) ((n - 0x100) % 32)
  else if 0x400 ≤ n ∧ n < 0x500 then locateClass (Fin.ofNat 16 ((n - 0x400) / 16)) ((n - 0x400) % 16)
  else none

/-- A two-byte field that may be written (R176). -/
def Field.writableHalf (f : Field) : Bool :=
  match f with
  | .eventRaw => true
  | .eventEnable => true
  | .agingWeight => true
  | .supervision => true
  | .capacity _ => true
  | .floor _ => true
  | .threshold1 _ => true
  | .threshold2 _ => true
  | .threshold3 _ => true
  | .classGuard _ => true
  | .classGrace _ => true
  | .classMaxWait _ => true
  | _ => false

/-! ### Reading -/

/-- The size code of a ring: 0 for 64, 1 for 128, 2 for 256, 3 for 512. -/
def ringCode (size : Nat) : Nat :=
  if size = 64 then 0 else if size = 128 then 1 else if size = 256 then 2 else 3

/-- The value a field reads as, in the bits the layouts list. -/
def State.fieldValue (s : State) (f : Field) : Nat :=
  match f with
  | .vendorCode => 0xBE
  | .partCode => 0x3260
  | .revision => 0x01
  | .tableControl => 0
  | .tableStatus => bitAt s.tableOpen 0 + bitAt s.drainBusy 1
  | .freeCount => s.freeList.length
  | .queuedCount => s.poolCount
  | .eventRaw => s.eventRaw.toNat
  | .eventEnable => s.eventEnable.toNat
  | .agingWeight => s.agingWeight
  | .supervision => s.supervision
  | .ringSize p => ringCode (s.port p).ringSize
  | .attention p => bitAt (s.port p).attnEnable 0 + bitAt (s.port p).attnPulse 1 + bitAt (s.port p).attnActiveLow 2
  | .pulseWidth p => (s.port p).pulseWidth
  | .portState p => (s.port p).state.code
  | .errorCount p => (s.port p).errorCount
  | .cellState c => (s.cell c).state.code
  | .owner c => (s.cell c).owner.val
  | .capacity c => (s.cell c).capacity
  | .floor c => (s.cell c).floor
  | .threshold1 c => (s.cell c).t1
  | .threshold2 c => (s.cell c).t2
  | .threshold3 c => (s.cell c).t3
  | .hysteresis c => (s.cell c).hysteresis
  | .depthLimit c => (s.cell c).depthLimit
  | .countA c => (s.cell c).countA
  | .countC c => (s.cell c).countC
  | .countR c => (s.cell c).countR
  | .occupancy c => (s.cell c).occupancy
  | .level c => (s.cell c).level
  | .queueDepth c => (s.cell c).queue.length
  | .cellCommand _ => 0
  | .commandResult c => if (s.cell c).result = .refused then 1 else 0
  | .classLevel k => (s.classAt k).level
  | .classFlags k =>
    bitAt (s.classAt k).emergency 0 + bitAt (s.classAt k).mayPreempt 1 + bitAt (s.classAt k).vulnerable 2
      + bitAt (s.classAt k).mayQueue 3
  | .classBoost k => (s.classAt k).boost
  | .classRefuse k => (s.classAt k).refuseLevel
  | .classGuard k => (s.classAt k).setupGuard
  | .classGrace k => (s.classAt k).grace
  | .classMaxWait k => (s.classAt k).maxWait

/-- The bits of a field that the layouts list no meaning for, and every bit of a write-only field: what they read as is
open (log entry 3). -/
def Field.unlisted (f : Field) : Half :=
  match f with
  | .tableControl => 0x00FF#16
  | .tableStatus => 0x00FC#16
  | .eventRaw => 0xFC00#16
  | .eventEnable => 0xFC00#16
  | .attention _ => 0x00F8#16
  | .cellCommand _ => 0x00FF#16
  | .classFlags _ => 0x00F0#16
  | _ => 0x0000#16

/-- The value a field is read as, with a free value in its unlisted bits. -/
def State.readField (s : State) (f : Field) : Half :=
  BitVec.ofNat 16 (s.fieldValue f) ||| (s.drawBits 0 &&& f.unlisted)

/-- The upper byte of a value. -/
def upperByte (v : Half) : Byte := BitVec.ofNat 8 (v.toNat / 256)

/-- The lower byte of a value. -/
def lowerByte (v : Half) : Byte := BitVec.ofNat 8 v.toNat

/-- One read access at an address (R175, R176): the byte returned, and the capture that a high byte leaves. -/
def State.readAt (s : State) (a : BitVec 16) : Byte × Capture :=
  match locate a with
  | none => (0, s.capture)
  | some (f, .whole) => (lowerByte (s.readField f), s.capture)
  | some (f, .high) => (upperByte (s.readField f), Capture.mk (s.readField f) (some f))
  | some (f, .low) =>
    if s.capture.field = some f then (lowerByte s.capture.value, s.capture) else (lowerByte (s.readField f), s.capture)

/-! ### Write accesses -/

/-- The current address of a write transaction. -/
def State.writeAddress (s : State) : Option (BitVec 16) :=
  match s.transaction with
  | some t => if t.direction = .write then some t.address else none
  | none => none

/-- The field that the next write access delivers its byte to; none when no write transaction is in progress or its current
address names no field. -/
def State.writeField (s : State) : Option (Field × Part) :=
  match s.writeAddress with
  | some a => locate a
  | none => none

/-- After an access the address moves up by one, 0xFFFF followed by 0x0000 (R175). -/
def State.advance (s : State) : State :=
  { s with transaction := s.transaction.map fun t => { t with address := t.address + 1 } }

/-- The 16-bit value that a low-byte write delivers: the holding byte above the written byte (R176). -/
def State.delivered (s : State) (b : Byte) : Half := s.holding ++ b

/-- Clamp a threshold: 0 as 1, above 1000 as 1000 (R23). -/
def clampThreshold (v : Nat) : Nat := min 1000 (max 1 v)

/-- Clamp a refuse level: 0 as 1, above 4 as 4 (R32). -/
def clampRefuse (v : Nat) : Nat := min 4 (max 1 v)

/-- The flags byte of a class (11.1, R32). -/
def ServiceClass.withFlags (k : ServiceClass) (b : Byte) : ServiceClass :=
  { k with
    emergency := b.getLsbD 0
    mayPreempt := b.getLsbD 1
    vulnerable := b.getLsbD 2
    mayQueue := b.getLsbD 3 }

/-- A write of a whole one-byte field that no other row names: h and the class fields; every other such field is not
changed by the write (R23, R32, R175). -/
def State.storeByte (s : State) (f : Field) (b : Byte) : State :=
  match f with
  | .hysteresis c => s.modCell c fun k => { k with hysteresis := b.toNat }
  | .classLevel k => s.modClass k fun e => { e with level := min 15 b.toNat }
  | .classFlags k => s.modClass k fun e => e.withFlags b
  | .classBoost k => s.modClass k fun e => { e with boost := min 3 b.toNat }
  | .classRefuse k => s.modClass k fun e => { e with refuseLevel := clampRefuse b.toNat }
  | _ => s

/-- A low-byte write of a two-byte field that no other row names: the class durations (R32, R176). -/
def State.storeHalf (s : State) (f : Field) (b : Byte) : State :=
  match f with
  | .classGuard k => s.modClass k fun e => { e with setupGuard := (s.delivered b).toNat }
  | .classGrace k => s.modClass k fun e => { e with grace := (s.delivered b).toNat }
  | .classMaxWait k => s.modClass k fun e => { e with maxWait := (s.delivered b).toNat }
  | _ => s

/-- A write access of a byte to this field belongs to a row of its own of the command table. -/
def Field.hasOwnRow (f : Field) (part : Part) (b : Byte) : Bool :=
  match f, part with
  | .tableControl, _ => decide (b = 1#8) || decide (b = 2#8)
  | .cellCommand _, _ => decide (1 ≤ b.toNat) && decide (b.toNat ≤ 5)
  | .eventRaw, .low => true
  | .eventEnable, .low => true
  | .agingWeight, .low => true
  | .supervision, .low => true
  | .capacity _, .low => true
  | .floor _, .low => true
  | .threshold1 _, .low => true
  | .threshold2 _, .low => true
  | .threshold3 _, .low => true
  | .ringSize _, _ => true
  | .attention _, _ => true
  | .pulseWidth _, _ => true
  | .owner _, _ => true
  | .depthLimit _, _ => true
  | _, _ => false

/-- What a write access that no other row names stores (R175, R176): a high byte of a writable two-byte field is held, a
whole field or the low byte of a class duration is stored with its clamp, anything else is ignored. -/
def State.storePart (s : State) (f : Field) (part : Part) (b : Byte) : State :=
  match part with
  | .whole => s.storeByte f b
  | .high => if f.writableHalf then { s with holding := b } else s
  | .low => s.storeHalf f b

end Sys2Proof.Machine
end

