-- ==== Sys2Proof/Machine/Management.lean ====
section
/-! DEFINITION. The meanings of the management port's commands: transactions and accesses (chapter 11), the table commands (R177, R178), the cell commands (R27), and the writes of configuration fields (chapters 2, 4, 6, 7, 9). -/

namespace Sys2Proof.Machine

/-! ### Transactions (R175) -/

/-- The direction that a command byte gives a transaction. -/
def directionOf (command : Byte) : Direction :=
  if command = 0x03#8 then .read else if command = 0x02#8 then .write else .noAccess

/-- SELECT_ASSERT (R175): a transaction begins with its command byte and start address; one whose command is neither read
nor write drives 0 on the data output until select is released. -/
def execSelectAssert (command : Byte) (address : BitVec 16) (s : State) : Host.Outcome State Fault Refusal :=
  .next { s with
    transaction := some (Transaction.mk (directionOf command) address)
    dataOut := if directionOf command = .noAccess then some 0 else none }

/-- SELECT_RELEASE (R175): the transaction ends. -/
def execSelectRelease (s : State) : Host.Outcome State Fault Refusal :=
  .next { s with transaction := none, dataOut := none }

/-- HIGH_BYTE_READ (R176, R175): one read access at the current address of a read transaction (log entry 9). -/
def execHighByteRead (s : State) : Host.Outcome State Fault Refusal :=
  match s.transaction with
  | some t =>
    if t.direction = .read then
      let o := s.readAt t.address
      .next ({ s with dataOut := some o.1, capture := o.2, freeDraws := s.freeDraws + 1 }).advance
    else .next s
  | none => .next s

/-- REGISTER_WRITE (R175, R176): a write access that no other row names; one at an address that names no field is ignored. -/
def execRegisterWrite (b : Byte) (s : State) : Host.Outcome State Fault Refusal :=
  match s.writeAddress with
  | some a =>
    match locate a with
    | some (f, part) => if f.hasOwnRow part b then .next s else .next (s.storePart f part b).advance
    | none => .next s.advance
  | none => .next s

/-! ### Table commands (R177, R178) -/

/-- OPEN_TABLE (R177): opens a closed table; an open one stays open. -/
def execOpenTable (s : State) : Host.Outcome State Fault Refusal :=
  match s.writeField with
  | some (.tableControl, _) => .next ({ s with tableOpen := true }).advance
  | _ => .next s

/-- A record after a Table Reset (R14): one that is not FREE has its generation advanced; every other field is dropped. -/
def Record.afterReset (r : Record) : Record :=
  match r.life with
  | .free => Record.mk r.generation .free none
  | _ => Record.mk (nextGeneration r.generation) .free none

/-- A cell's entry after a Table Reset, before its level is formed (R22, R69, R70, R139, R156): DRAINING becomes CLOSED. -/
def Cell.emptied (k : Cell) : Cell :=
  { k with
    state := if k.state = .draining then .closed else k.state
    countA := 0
    countC := 0
    countR := 0
    level := 0
    queue := []
    enqueueOrder := []
    rankList := []
    pendingLevel := false
    drainFlag := false }

/-- A port after a Table Reset (R178): ring and backlog cleared, the attention line deasserted, and the drain flag set for a
port in DRAINING (R139). -/
def Port.afterReset (q : Port) : Port :=
  { q.clearRing with backlog := [], drainFlag := decide (q.state = .draining) }

/-- The record store after a Table Reset: records as pin reset left them are not listed. -/
def resetRecords (l : List (Nat × Record)) : List (Nat × Record) :=
  (l.map fun (e : Nat × Record) => (e.1, e.2.afterReset)).filter fun e => decide (e.2 ≠ Record.fresh)

/-- The Table Reset (R178, R14, R69, R132, R139): one change over the whole table, no notice and no event raised. Each cell's
level is formed from 0 (R132). The idle engine looks among the flags of the DRAINING ports (R140). -/
def State.resetTable (s : State) : State :=
  State.chooseJob { s with
    tableOpen := false
    records := resetRecords s.records
    freeList := List.range Config.recordCount
    directory := []
    cells := s.cells.map fun k => k.emptied.recomputed
    ports := s.ports.map Port.afterReset
    job := none
    chosen := none }

/-- TABLE_RESET (R178). -/
def execTableReset (s : State) : Host.Outcome State Fault Refusal :=
  match s.writeField with
  | some (.tableControl, _) => .next s.resetTable.advance
  | _ => .next s

/-! ### Cell commands (R27) -/

/-- A cell command is taken: the result state, and DONE. -/
def State.commandDone (s : State) (c : CellIx) (state : CellState) : State :=
  s.modCell c fun k => { k with state := state, result := .done }

/-- A cell command is refused: REFUSED, and nothing else. -/
def State.commandRefused (s : State) (c : CellIx) : State :=
  s.modCell c fun k => { k with result := .refused }

/-- Open (R27, R131). -/
def State.openCommand (s : State) (c : CellIx) : State :=
  if (s.cell c).state = .closed then (s.commandDone c .opened).recompute c else s.commandRefused c

/-- OPEN (R131). -/
def execOpenCell (s : State) : Host.Outcome State Fault Refusal :=
  match s.writeField with
  | some (.cellCommand c, _) => .next (s.openCommand c).advance
  | _ => .next s

/-- Bar (R27). -/
def State.barCommand (s : State) (c : CellIx) : State :=
  if (s.cell c).state = .opened then s.commandDone c .barred else s.commandRefused c

/-- BAR (R27). -/
def execBarCell (s : State) : Host.Outcome State Fault Refusal :=
  match s.writeField with
  | some (.cellCommand c, _) => .next (s.barCommand c).advance
  | _ => .next s

/-- Unbar (R27): queue service starts in the cell. -/
def State.unbarCommand (s : State) (c : CellIx) : State :=
  if (s.cell c).state = .barred then (s.commandDone c .opened).servicePass c else s.commandRefused c

/-- UNBAR (R27). -/
def execUnbarCell (s : State) : Host.Outcome State Fault Refusal :=
  match s.writeField with
  | some (.cellCommand c, _) => .next (s.unbarCommand c).advance
  | _ => .next s

/-- Drain (R27, R139, R140): the cell's drain flag is set, and an idle engine looks for a job. -/
def State.drainCommand (s : State) (c : CellIx) : State :=
  if (s.cell c).state = .opened ∨ (s.cell c).state = .barred then
    ((s.commandDone c .draining).modCell c fun k => { k with drainFlag := true }).chooseJob
  else s.commandRefused c

/-- DRAIN (R27). -/
def execDrainCell (s : State) : Host.Outcome State Fault Refusal :=
  match s.writeField with
  | some (.cellCommand c, _) => .next (s.drainCommand c).advance
  | _ => .next s

/-- The Drain Engine gives up a drain that a Stop Drain names (R145): the job in progress ends, or the choice of it is
dropped; the engine looks for a pending job when it is idle. -/
def State.dropJob (s : State) (j : Job) : State :=
  State.chooseJob { s with
    job := if s.job = some j then none else s.job
    chosen := if s.chosen = some j then none else s.chosen }

/-- Stop Drain (R145): the cell's job in progress ends, or its pending flag is cleared; the cell goes to BARRED and DRAIN_DONE
is raised. -/
def State.stopDrainCommand (s : State) (c : CellIx) : State :=
  if (s.cell c).state = .draining then
    (((s.commandDone c .barred).modCell c fun k => { k with drainFlag := false }).dropJob (.cellDrain c)).raiseEvent
      drainDoneEvent
  else s.commandRefused c

/-- STOP_DRAIN (R145). -/
def execStopDrain (s : State) : Host.Outcome State Fault Refusal :=
  match s.writeField with
  | some (.cellCommand c, _) => .next (s.stopDrainCommand c).advance
  | _ => .next s

/-! ### Writes of cell fields (R23) -/

/-- A write of K (R23, R133): recompute when it changes, and queue service when it rises. -/
def State.writeCapacity (s : State) (c : CellIx) (v : Nat) : State :=
  let old := (s.cell c).capacity
  if v = old then s
  else ((s.modCell c fun k => { k with capacity := v }).recompute c).serviceWhen (decide (old < v)) c

/-- CAPACITY_WRITE (R23). -/
def execCapacityWrite (b : Byte) (s : State) : Host.Outcome State Fault Refusal :=
  match s.writeField with
  | some (.capacity c, .low) => .next (s.writeCapacity c (s.delivered b).toNat).advance
  | _ => .next s

/-- A write of F (R23): queue service when it falls; no recompute (R128). -/
def State.writeFloor (s : State) (c : CellIx) (v : Nat) : State :=
  (s.modCell c fun k => { k with floor := v }).serviceWhen (decide (v < (s.cell c).floor)) c

/-- FLOOR_WRITE (R23). -/
def execFloorWrite (b : Byte) (s : State) : Host.Outcome State Fault Refusal :=
  match s.writeField with
  | some (.floor c, .low) => .next (s.writeFloor c (s.delivered b).toNat).advance
  | _ => .next s

/-- A write of t1 (R23, R133): clamped, and a recompute when it changes. -/
def State.writeThreshold1 (s : State) (c : CellIx) (v : Nat) : State :=
  if clampThreshold v = (s.cell c).t1 then s
  else (s.modCell c fun k => { k with t1 := clampThreshold v }).recompute c

/-- A write of t2 (R23, R133). -/
def State.writeThreshold2 (s : State) (c : CellIx) (v : Nat) : State :=
  if clampThreshold v = (s.cell c).t2 then s
  else (s.modCell c fun k => { k with t2 := clampThreshold v }).recompute c

/-- A write of t3 (R23, R133). -/
def State.writeThreshold3 (s : State) (c : CellIx) (v : Nat) : State :=
  if clampThreshold v = (s.cell c).t3 then s
  else (s.modCell c fun k => { k with t3 := clampThreshold v }).recompute c

/-- THRESHOLD_WRITE (R133). -/
def execThresholdWrite (b : Byte) (s : State) : Host.Outcome State Fault Refusal :=
  match s.writeField with
  | some (.threshold1 c, .low) => .next (s.writeThreshold1 c (s.delivered b).toNat).advance
  | some (.threshold2 c, .low) => .next (s.writeThreshold2 c (s.delivered b).toNat).advance
  | some (.threshold3 c, .low) => .next (s.writeThreshold3 c (s.delivered b).toNat).advance
  | _ => .next s

/-- A write of the owner port (R23, R29): taken while the cell is CLOSED with no pending LEVEL entry, above 3 as 3. -/
def State.writeOwner (s : State) (c : CellIx) (v : Nat) : State :=
  if (s.cell c).state = .closed ∧ (s.cell c).pendingLevel = false then
    s.modCell c fun k => { k with owner := Fin.ofNat 4 (min 3 v) }
  else s

/-- OWNER_PORT_WRITE (R23). -/
def execOwnerPortWrite (b : Byte) (s : State) : Host.Outcome State Fault Refusal :=
  match s.writeField with
  | some (.owner c, _) => .next (s.writeOwner c b.toNat).advance
  | _ => .next s

/-- A write of the depth limit (R77): above 64 as 64; the queue is cut back to it, and a pass follows when the cut removed
the head. -/
def State.writeDepthLimit (s : State) (c : CellIx) (v : Nat) : State :=
  let limit := min 64 v
  let s1 := s.modCell c fun k => { k with depthLimit := limit }
  let s2 := s1.cutQueue c limit (s.cell c).queue.length
  s2.serviceWhen (decide ((s2.cell c).queue.head? ≠ (s.cell c).queue.head?)) c

/-- DEPTH_LIMIT_WRITE (R77). -/
def execDepthLimitWrite (b : Byte) (s : State) : Host.Outcome State Fault Refusal :=
  match s.writeField with
  | some (.depthLimit c, _) => .next (s.writeDepthLimit c b.toNat).advance
  | _ => .next s

/-! ### Global settings -/

/-- A write of W (R73): above 4,095 as 4,095; the value already held changes nothing. -/
def State.writeAgingWeight (s : State) (v : Nat) : State :=
  if min 4095 v = s.agingWeight then s else s.reweigh (min 4095 v)

/-- AGING_WEIGHT_WRITE (R73). -/
def execAgingWeightWrite (b : Byte) (s : State) : Host.Outcome State Fault Refusal :=
  match s.writeField with
  | some (.agingWeight, .low) => .next (s.writeAgingWeight (s.delivered b).toNat).advance
  | _ => .next s

/-- Supervision starts afresh: the timestamp of every port in UP becomes now (R125). -/
def State.restartSupervision (s : State) : State :=
  { s with ports := s.ports.map fun q => if q.state = .up then { q with timestamp := s.tick } else q }

/-- The watched ports whose age has reached the S now stored (R125). -/
def State.overduePorts (s : State) : List PortIx :=
  (List.finRange 4).filter fun p => s.watched p && decide (s.supervision ≤ age s.tick (s.port p).timestamp)

/-- Every port whose age has reached the S now stored expires (R125). The manual leaves the order open, and the model takes a
free one (DESIGN CHOICE, log entry 4): the drain of the port taken first is the one an idle engine starts, the flags of the
others wait (R124, R140), and SPENT records of several backlogs become FREE in that order. -/
def State.expirePorts (s : State) : State :=
  { (openOrder s.freeDraws s.overduePorts).foldl State.expirePort s with freeDraws := s.freeDraws + s.overduePorts.length }

/-- A write of S (R125): above 5,000 as 5,000. The value already held changes nothing; 0 disables supervision; a nonzero
value after 0 starts it afresh; another nonzero value expires the ports whose age has reached it. -/
def State.writeSupervision (s : State) (v : Nat) : State :=
  let value := min 5000 v
  let s1 := { s with supervision := value }
  if value = s.supervision then s
  else if value = 0 then s1
  else if s.supervision = 0 then s1.restartSupervision
  else s1.expirePorts

/-- SUPERVISION_INTERVAL_WRITE (R125). -/
def execSupervisionIntervalWrite (b : Byte) (s : State) : Host.Outcome State Fault Refusal :=
  match s.writeField with
  | some (.supervision, .low) => .next (s.writeSupervision (s.delivered b).toNat).advance
  | _ => .next s

/-! ### Port settings (R162) -/

/-- ATTENTION_WRITE (R162): the attention byte or the pulse width of a port. -/
def execAttentionWrite (b : Byte) (s : State) : Host.Outcome State Fault Refusal :=
  match s.writeField with
  | some (.attention p, _) => .next (s.modPort p fun q => q.writeAttention s.tick b).advance
  | some (.pulseWidth p, _) => .next (s.modPort p fun q => q.writePulseWidth b).advance
  | _ => .next s

/-- A write of the ring size (R162, R175): taken for the codes 0 to 3 while ring and backlog are both empty. -/
def Port.writeRingSize (q : Port) (b : Byte) : Port :=
  if b.toNat ≤ 3 ∧ q.ring = [] ∧ q.backlog = [] then { q with ringSize := 64 * 2 ^ b.toNat } else q

/-- RING_SIZE_WRITE (R162). -/
def execRingSizeWrite (b : Byte) (s : State) : Host.Outcome State Fault Refusal :=
  match s.writeField with
  | some (.ringSize p, _) => .next (s.modPort p fun q => q.writeRingSize b).advance
  | _ => .next s

/-! ### Management events (R176, R179, R180) -/

/-- The ten flags of a 16-bit value of the event fields. -/
def eventBits (v : Half) : BitVec 10 := v.setWidth 10

/-- EVENT_RAW_WRITE (R179): every raw flag whose bit is one is cleared, and the interrupt line follows. -/
def execEventRawWrite (b : Byte) (s : State) : Host.Outcome State Fault Refusal :=
  match s.writeField with
  | some (.eventRaw, .low) =>
    .next (s.setEvents (s.eventRaw &&& ~~~eventBits (s.delivered b)) s.eventEnable).advance
  | _ => .next s

/-- EVENT_ENABLE_WRITE (R180): the enables take the value, and the interrupt line follows. -/
def execEventEnableWrite (b : Byte) (s : State) : Host.Outcome State Fault Refusal :=
  match s.writeField with
  | some (.eventEnable, .low) => .next (s.setEvents s.eventRaw (eventBits (s.delivered b))).advance
  | _ => .next s

end Sys2Proof.Machine
end

