-- ==== Sys2Proof/Machine/Requests.lean ====
section
/-! DEFINITION. The meanings of the request commands: Admit (chapter 3), Confirm, Release, Amend, Resize, Move (chapter 5), Lookup, Query (1.7), Fetch (9.5), Cell Status (2.6), Withdraw (8.4) and Null (R171). -/

namespace Sys2Proof.Machine

/-! ### Admit -/

/-- An urgent-lane Admit names a class whose emergency flag is clear (R41). -/
def State.urgentMisuse (s : State) (l : Lane) (r : Request) : Bool :=
  decide (l = .urgent) && !(s.classAt r.cls).emergency

/-- Check 2 of R40: a malformed body, or an urgent-lane Admit of a non-emergency class. -/
def State.badAdmit (s : State) (l : Lane) (r : Request) : Bool :=
  r.malformed || s.urgentMisuse l r

/-- The free count lets a class take a record (R9). -/
def State.recordAvailable (s : State) (emergency : Bool) : Bool :=
  if emergency then decide (1 ≤ s.freeList.length) else decide (Config.reserveSize + 1 ≤ s.freeList.length)

/-- Checks 3 to 9 of R40, in order: the answer of the first that applies; none when all pass. -/
def State.admitRefusal (s : State) (p : PortIx) (r : Request) : Option Reply :=
  let cell := s.cell r.key.cell
  let cls := s.classAt r.cls
  if cell.owner ≠ p then some (bare .notOwner)
  else match s.findKey r.key with
  | some h => some (s.duplicate h)
  | none =>
    match cellRefusal cell.state cls.emergency with
    | some st => some (bare st)
    | none =>
      if cls.level = 0 then some (bare .classClosed)
      else if cell.limit cls.emergency < clampDemand r.admitDemand then some (bare .tooLarge)
      else if cls.refuseInUse ≤ cell.level then some (bare .congested)
      else if s.recordAvailable cls.emergency then none
      else some (bare .tableFull)

/-- A newcomer competes directly (R45): the queue is empty, or it outranks the head. -/
def State.competes (s : State) (ses : Session) : Bool :=
  match (s.cell ses.key.cell).queue with
  | [] => true
  | i :: _ =>
    if ses.emergency && !s.emergencyAt i then true
    else (ses.emergency == s.emergencyAt i) && earlier (virtualArrival s.tick ses.level s.agingWeight) (s.virtualAt i)

/-- The queue is full for a newcomer (R75): the depth is at or above the limit, or the pool count is 512. -/
def State.queueFull (s : State) (c : CellIx) : Bool :=
  decide ((s.cell c).depthLimit ≤ (s.cell c).queue.length) || decide (Config.poolSize ≤ s.poolCount)

/-- The queue route (R47, R74 to R76). -/
def State.queueRoute (s : State) (r : Request) (ses : Session) : State × Reply :=
  let c := ses.key.cell
  let h := s.handleOf s.nextFree
  if !(s.classAt ses.cls).mayQueueInUse || r.noQueueFlag || r.handoverFlag then (s, bare .noRoom)
  else if s.queueFull c then
    if ses.emergency then
      match s.lastOrdinary c with
      | some i => (((s.displace i).enqueue ses).serviceWhen (s.isHead c i) c, reply .queued (.handle h))
      | none => (s, bare .queueFull)
    else (s, bare .queueFull)
  else (s.enqueue ses, reply .queued (.handle h))

/-- Routing of a newcomer that has passed the first nine checks (R45, R46): the direct routes when it competes, otherwise
or when they fail the queue route. -/
def State.routeNewcomer (s : State) (r : Request) (ses : Session) : State × Reply :=
  let c := ses.key.cell
  let h := s.handleOf s.nextFree
  if s.competes ses then
    if ses.demand ≤ (s.cell c).headroom ses.emergency then (s.admitPlain ses, reply .ok (.handle h))
    else if s.mayPreempt ses then
      match s.victimsFor c ses with
      | some vs => (s.admitHeld ses vs, reply .held (.handle h))
      | none => s.queueRoute r ses
    else s.queueRoute r ses
  else s.queueRoute r ses

/-- An Admit from check 3 on (R40): every response carries CLAMPED when the demand field was 0 (R41). -/
def State.admitChecked (s : State) (p : PortIx) (r : Request) : State × Reply :=
  let o := match s.admitRefusal p r with
    | some a => (s, a)
    | none => s.routeNewcomer r (newSession (s.classAt r.cls) r)
  (o.1, o.2.clampedWhen (decide (r.admitDemand = 0)))

/-- ADMIT (R40). -/
def execAdmit (s : State) : Host.Outcome State Fault Refusal :=
  s.serve (fun r => decide (r.kind = .admission)) fun p l r t => t.engine p r (t.badAdmit l r) fun u => u.admitChecked p r

/-! ### Confirm -/

/-- Confirm of a resolved record (R90). -/
def State.confirmRecord (s : State) (r : Request) (ses : Session) (st : Stage) : State × Reply :=
  match st with
  | .setup stamp _ => (s.setLive r.handle.index ses (.active stamp), reply .ok (.handleState r.handle .active))
  | .active _ => (s, reply .ok (.handleState r.handle .active))
  | _ => s.wrongState r

/-- CONFIRM (R90). -/
def execConfirm (s : State) : Host.Outcome State Fault Refusal :=
  s.serve (fun r => decide (r.kind = .confirm)) fun p _ r t =>
    t.engine p r r.malformed fun u => u.withRecord p r (u.confirmRecord r)

/-! ### Release -/

/-- Release of a resolved record (R92 to R96): the change of its state, retirement, and the pass that follows. -/
def State.releaseRecord (s : State) (r : Request) (ses : Session) (st : Stage) : State × Reply :=
  let i := r.handle.index
  let s1 := s.giveUp i ses st
  ((s1.retire i).serviceWhen (s.startsPass s1 i ses st) ses.key.cell,
    reply .ok (.handleState r.handle (s.record i).state))

/-- RELEASE (R92). -/
def execRelease (s : State) : Host.Outcome State Fault Refusal :=
  s.serve (fun r => decide (r.kind = .release)) fun p _ r t =>
    t.engine p r r.malformed fun u => u.withRecord p r (u.releaseRecord r)

/-! ### Lookup and Query -/

/-- Lookup of a key (R18): NOT_OWNER before the directory is searched, STALE for an absent key. -/
def State.lookupKey (s : State) (p : PortIx) (r : Request) : Reply :=
  if (s.cell r.key.cell).owner ≠ p then bare .notOwner
  else match s.findKey r.key with
    | some h =>
      match s.liveAt h.index with
      | some (ses, _) => reply .ok (.lookup h (s.record h.index).state ses.cls ses.level ses.demand)
      | none => bare .stale
    | none => bare .stale

/-- LOOKUP (R18). -/
def execLookup (s : State) : Host.Outcome State Fault Refusal :=
  s.serve (fun r => decide (r.kind = .lookup)) fun p _ r t => t.engine p r r.malformed fun u => (u, u.lookupKey p r)

/-- QUERY (R19): every present field of the record named by a resolved handle. -/
def execQuery (s : State) : Host.Outcome State Fault Refusal :=
  s.serve (fun r => decide (r.kind = .query)) fun p _ r t =>
    t.engine p r r.malformed fun u =>
      u.withRecord p r fun _ _ => (u, reply .ok (.query r.handle.index (u.record r.handle.index)))

/-! ### Amend -/

/-- The Amend command of an operation code takes an Amend that carries the code, and an Amend whose operation field is none
of the four (log entry 7). -/
def Request.isAmend (r : Request) (operation : Nat) : Bool :=
  decide (r.kind = .amend) && (decide (r.operation = operation) || decide (r.operation < 1) || decide (4 < r.operation))

/-- The tags word of a resolved record takes a new value; the response carries the old and the new (R99). -/
def State.amendTags (s : State) (r : Request) (ses : Session) (st : Stage) (new : Half) (isMatch : Bool) : State × Reply :=
  (s.setLive r.handle.index { ses with tags := new } st,
    Reply.mk .ok (decide (new = 0#16)) isMatch false (.amend ses.tags new))

/-- AMEND_SET (R100). -/
def execAmendSet (s : State) : Host.Outcome State Fault Refusal :=
  s.serve (fun r => r.isAmend 1) fun p _ r t =>
    t.engine p r r.malformed fun u => u.withRecord p r fun ses st => u.amendTags r ses st (ses.tags ||| r.mask) false

/-- AMEND_CLEAR (R100). -/
def execAmendClear (s : State) : Host.Outcome State Fault Refusal :=
  s.serve (fun r => r.isAmend 2) fun p _ r t =>
    t.engine p r r.malformed fun u => u.withRecord p r fun ses st => u.amendTags r ses st (ses.tags &&& ~~~r.mask) false

/-- AMEND_TEST (R101): ZERO for the selected part, nothing stored. -/
def execAmendTest (s : State) : Host.Outcome State Fault Refusal :=
  s.serve (fun r => r.isAmend 3) fun p _ r t =>
    t.engine p r r.malformed fun u => u.withRecord p r fun ses _ =>
      (u, Reply.mk .ok (decide (ses.tags &&& r.mask = 0#16)) false false (.amend ses.tags ses.tags))

/-- The tags after an EXCHANGE (R102): the selected bits take the value's when they equal the comparand's. -/
def exchangeTags (tags mask comparand value : Half) : Half :=
  if tags &&& mask = comparand &&& mask then (tags &&& ~~~mask) ||| (value &&& mask) else tags

/-- AMEND_EXCHANGE (R102). -/
def execAmendExchange (s : State) : Host.Outcome State Fault Refusal :=
  s.serve (fun r => r.isAmend 4) fun p _ r t =>
    t.engine p r r.malformed fun u => u.withRecord p r fun ses st =>
      u.amendTags r ses st (exchangeTags ses.tags r.mask r.comparand r.value)
        (decide (ses.tags &&& r.mask = r.comparand &&& r.mask))

/-! ### Resize -/

/-- Give a live record a demand, with the change of A, its recompute and the pass of a decrease (R104, R105). -/
def State.changeDemand (s : State) (i : Nat) (ses : Session) (st : Stage) (d : Nat) : State :=
  let c := ses.key.cell
  let s1 := s.setLive i { ses with demand := d } st
  if d < ses.demand then ((s1.subA c (ses.demand - d)).recompute c).servicePass c
  else (s1.addA c (d - ses.demand)).recompute c

/-- Resize of a SETUP or ACTIVE record to a demand (R103 to R105). -/
def State.resizeTo (s : State) (i : Nat) (ses : Session) (st : Stage) (d : Nat) : State × Reply :=
  if d = ses.demand then (s, reply .ok (.demand d))
  else if d < ses.demand ∨ d - ses.demand ≤ (s.cell ses.key.cell).headroom ses.emergency then
    (s.changeDemand i ses st d, reply .ok (.demand d))
  else (s, reply .noRoom (.demand ses.demand))

/-- Resize of a resolved record (R103). -/
def State.resizeRecord (s : State) (r : Request) (ses : Session) (st : Stage) : State × Reply :=
  match st with
  | .setup _ _ => s.resizeTo r.handle.index ses st (clampDemand r.resizeDemand)
  | .active _ => s.resizeTo r.handle.index ses st (clampDemand r.resizeDemand)
  | _ => s.wrongState r

/-- RESIZE (R103): every response after the BAD_REQUEST check carries CLAMPED when the demand field was 0. -/
def execResize (s : State) : Host.Outcome State Fault Refusal :=
  s.serve (fun r => decide (r.kind = .resize)) fun p _ r t =>
    t.engine p r r.malformed fun u =>
      let o := u.withRecord p r (u.resizeRecord r)
      (o.1, o.2.clampedWhen (decide (r.resizeDemand = 0)))

/-! ### Move -/

/-- The session after a Move (R109): the key takes the target cell, and the level is recomputed from the class entry. -/
def State.movedSession (s : State) (ses : Session) (target : CellIx) : Session :=
  { ses with
    key := { ses.key with cell := target }
    level := (s.classAt ses.cls).moveLevel ses.emergency }

/-- The checks of a Move in their order (R107): the answer of the first that applies; none when all pass. -/
def State.moveRefusal (s : State) (ses : Session) (target : CellIx) : Option Reply :=
  let cell := s.cell target
  if cell.owner ≠ (s.cell ses.key.cell).owner then some (bare .notOwner)
  else match cellRefusal cell.state ses.emergency with
  | some st => some (bare st)
  | none =>
    match s.findKey (s.movedSession ses target).key with
    | some h => some (s.duplicate h)
    | none => if cell.headroom ses.emergency < ses.demand then some (bare .noRoom) else none

/-- A stage with a new admit stamp (R109): a SETUP record keeps its deadline. -/
def Stage.restamped (st : Stage) (now : Tick) : Stage :=
  match st with
  | .setup _ deadline => .setup now deadline
  | .active _ => .active now
  | _ => st

/-- A Move that passes its checks (R109, R16): the source gives up the demand, the key is re-keyed, the target counts the
demand and takes the record on its rank list; each cell is recomputed, source first (log entry 18), and a pass follows in
the source cell. -/
def State.carryRecord (s : State) (i : Nat) (ses : Session) (st : Stage) (target : CellIx) : State :=
  let source := ses.key.cell
  let moved := s.movedSession ses target
  let s1 := ((s.subA source ses.demand).leaveRank source i).dropKey ses.key
  let s2 := ((s1.setLive i moved (st.restamped s.tick)).addKey moved.key (s.handleOf i)).countSetup target i moved
  ((s2.recompute source).recompute target).servicePass source

/-- Move of a SETUP or ACTIVE record. -/
def State.moveTo (s : State) (r : Request) (ses : Session) (st : Stage) : State × Reply :=
  match s.moveRefusal ses r.target with
  | some a => (s, a)
  | none =>
    (s.carryRecord r.handle.index ses st r.target,
      reply .ok (.move r.handle r.target (s.movedSession ses r.target).level))

/-- Move of a resolved record (R107). -/
def State.moveRecord (s : State) (r : Request) (ses : Session) (st : Stage) : State × Reply :=
  match st with
  | .setup _ _ => s.moveTo r ses st
  | .active _ => s.moveTo r ses st
  | _ => s.wrongState r

/-- MOVE (R109). -/
def execMove (s : State) : Host.Outcome State Fault Refusal :=
  s.serve (fun r => decide (r.kind = .move)) fun p _ r t =>
    t.engine p r r.malformed fun u => u.withRecord p r (u.moveRecord r)

/-! ### Fetch, Cell Status, Withdraw, Null -/

/-- Fetch at a port (R158): the notices removed, the ring count and the backlog flag after the moves. -/
def State.fetchReply (s : State) (p : PortIx) (k : Nat) : State × Reply :=
  let o := s.fetchNotices p k
  (o.2, reply .ok (.fetch o.1 (o.2.port p).ring.length (!(o.2.port p).backlog.isEmpty)))

/-- FETCH (R158). -/
def execFetch (s : State) : Host.Outcome State Fault Refusal :=
  s.serve (fun r => decide (r.kind = .fetch)) fun p _ r t =>
    t.engine p r r.malformed fun u => u.fetchReply p r.count

/-- What Cell Status reports of a cell (R38). -/
def State.statusReply (s : State) (c : CellIx) : Reply :=
  let k := s.cell c
  reply .ok (.cellStatus k.state k.capacity k.floorInUse k.countA k.countC k.countR k.use k.occupancy k.level
    k.queue.length (s.liveIn c).length)

/-- CELL_STATUS (R38). -/
def execCellStatus (s : State) : Host.Outcome State Fault Refusal :=
  s.serve (fun r => decide (r.kind = .cellStatus)) fun p _ r t =>
    t.engine p r r.malformed fun u => (u, u.statusReply r.statusCell)

/-- WITHDRAW (R146): answered OK in either table state, ahead of the answers of the port's entry to DRAINING (R147). -/
def execWithdraw (s : State) : Host.Outcome State Fault Refusal :=
  s.serve (fun r => decide (r.kind = .withdraw)) fun p _ r t => (t.answer p r (bare .ok)).enterDraining p

/-- NULL (R171): nothing but the answer. -/
def execNull (s : State) : Host.Outcome State Fault Refusal :=
  s.serve (fun r => decide (r.kind = .null)) fun p _ r t => t.engine p r r.malformed fun u => (u, bare .ok)

end Sys2Proof.Machine
end

