-- ==== Sys2Proof/Machine/Resets.lean ====
section
/-! DEFINITION. The meaning of PIN_RESET (R181). -/

namespace Sys2Proof.Machine

/-- PIN_RESET (R181): every block takes its pin-reset state. The queue of waiting commands and the count of free values
drawn are the model's own and stay (log entry 15). -/
def execPinReset (s : State) : Host.Outcome State Fault Refusal :=
  .next { State.reset with pending := s.pending, freeDraws := s.freeDraws }

end Sys2Proof.Machine
end

