-- ==== Sys2Proof/Machine/Dispatch.lean ====
section
/-! DEFINITION. One arm for each command: a direct call of its meaning. -/

namespace Sys2Proof.Machine

/-- The effect of a command on everything but the queue of waiting commands. -/
def exec (i : Instr) (s : State) : Host.Outcome State Fault Refusal :=
  match i with
  | .pinReset => Sys2Proof.Machine.execPinReset s
  | .tick => Sys2Proof.Machine.execTick s
  | .frameArrival port bytes => Sys2Proof.Machine.execFrameArrival port bytes s
  | .admitRequest => Sys2Proof.Machine.execAdmit s
  | .confirmRequest => Sys2Proof.Machine.execConfirm s
  | .releaseRequest => Sys2Proof.Machine.execRelease s
  | .lookupRequest => Sys2Proof.Machine.execLookup s
  | .queryRequest => Sys2Proof.Machine.execQuery s
  | .amendSet => Sys2Proof.Machine.execAmendSet s
  | .amendClear => Sys2Proof.Machine.execAmendClear s
  | .amendTest => Sys2Proof.Machine.execAmendTest s
  | .amendExchange => Sys2Proof.Machine.execAmendExchange s
  | .resizeRequest => Sys2Proof.Machine.execResize s
  | .moveRequest => Sys2Proof.Machine.execMove s
  | .fetchRequest => Sys2Proof.Machine.execFetch s
  | .cellStatusRequest => Sys2Proof.Machine.execCellStatus s
  | .withdrawRequest => Sys2Proof.Machine.execWithdraw s
  | .nullRequest => Sys2Proof.Machine.execNull s
  | .responseSent port => Sys2Proof.Machine.execResponseSent port s
  | .setupGuardExpiry index => Sys2Proof.Machine.execSetupGuardExpiry index s
  | .graceExpiry index => Sys2Proof.Machine.execGraceExpiry index s
  | .waitExpiry index => Sys2Proof.Machine.execWaitExpiry index s
  | .supervisionExpiry port => Sys2Proof.Machine.execSupervisionExpiry port s
  | .pulseEnd port => Sys2Proof.Machine.execPulseEnd port s
  | .drainJobStart => Sys2Proof.Machine.execDrainJobStart s
  | .cellDrainStep => Sys2Proof.Machine.execCellDrainStep s
  | .portDrainStep => Sys2Proof.Machine.execPortDrainStep s
  | .selectAssert command address => Sys2Proof.Machine.execSelectAssert command address s
  | .openTable => Sys2Proof.Machine.execOpenTable s
  | .tableReset => Sys2Proof.Machine.execTableReset s
  | .openCell => Sys2Proof.Machine.execOpenCell s
  | .barCell => Sys2Proof.Machine.execBarCell s
  | .unbarCell => Sys2Proof.Machine.execUnbarCell s
  | .drainCell => Sys2Proof.Machine.execDrainCell s
  | .stopDrain => Sys2Proof.Machine.execStopDrain s
  | .capacityWrite byte => Sys2Proof.Machine.execCapacityWrite byte s
  | .floorWrite byte => Sys2Proof.Machine.execFloorWrite byte s
  | .thresholdWrite byte => Sys2Proof.Machine.execThresholdWrite byte s
  | .ownerPortWrite byte => Sys2Proof.Machine.execOwnerPortWrite byte s
  | .depthLimitWrite byte => Sys2Proof.Machine.execDepthLimitWrite byte s
  | .agingWeightWrite byte => Sys2Proof.Machine.execAgingWeightWrite byte s
  | .supervisionIntervalWrite byte => Sys2Proof.Machine.execSupervisionIntervalWrite byte s
  | .attentionWrite byte => Sys2Proof.Machine.execAttentionWrite byte s
  | .ringSizeWrite byte => Sys2Proof.Machine.execRingSizeWrite byte s
  | .eventRawWrite byte => Sys2Proof.Machine.execEventRawWrite byte s
  | .eventEnableWrite byte => Sys2Proof.Machine.execEventEnableWrite byte s
  | .highByteRead => Sys2Proof.Machine.execHighByteRead s
  | .registerWrite byte => Sys2Proof.Machine.execRegisterWrite byte s
  | .selectRelease => Sys2Proof.Machine.execSelectRelease s

end Sys2Proof.Machine
end

