-- ==== Sys2Proof/WellFormed.lean ====
section
/-! DEFINITION. Which commands are well formed: the operands the hardware can be given. -/

namespace Sys2Proof

/-- The bytes of one whole frame (R164): the delimiter 0xA6, a header of five bytes, as many body bytes as the header's
body length gives, two check bytes, and nothing after them. -/
def wholeFrame : List Byte → Bool
  | 0xA6#8 :: _ :: _ :: _ :: _ :: len :: rest => rest.length == len.toNat + 2
  | _ => false

/-- A command is well formed when its frame is whole and its record index names a record. -/
def Instr.wellFormed : Instr → Bool
  | .frameArrival _ bytes => wholeFrame bytes
  | .setupGuardExpiry i => decide (i < Config.recordCount)
  | .graceExpiry i => decide (i < Config.recordCount)
  | .waitExpiry i => decide (i < Config.recordCount)
  | _ => true

end Sys2Proof
end

