-- ==== Sys2Proof/Safety.lean ====
section
/-! DEFINITION. The terms claims use: when a command happens, what a frame is, and the invariants of the machine. -/

namespace Sys2Proof.Machine

/-! ### When a command happens -/

/-- The arbiter hands over a request that a command carries out (R169). -/
def State.offers (s : State) (wanted : Request → Bool) : Bool :=
  match s.arbiterChoice with
  | some (_, _, r) => wanted r
  | none => false

/-- The deadline that an expiry of the record at an index would consume, with the code of its kind: 1 SETUP_GUARD, 2 GRACE,
3 WAIT (R115). -/
def State.deadlineAt (s : State) (i : Nat) : Option (Tick × Nat) :=
  match s.liveAt i with
  | some (_, st) => st.deadline?
  | none => none

/-- A write access stands at a field, at its whole or its less significant byte. -/
def State.writesTo (s : State) (want : Field → Part → Bool) : Bool :=
  match s.writeField with
  | some (f, part) => want f part
  | none => false

/-- A field and part is a cell's command field. -/
def isCellCommand (f : Field) (_ : Part) : Bool :=
  match f with
  | .cellCommand _ => true
  | _ => false

/-- The command happens in a state: the event it names can be taken there. A command that does not happen changes nothing
(log entries 6, 8, 10). -/
def happens (i : Instr) (s : State) : Bool :=
  match i with
  | .pinReset => true
  | .tick => true
  | .frameArrival _ bytes => decide (readFrame bytes ≠ .noFrame)
  | .admitRequest => s.offers fun r => decide (r.kind = .admission)
  | .confirmRequest => s.offers fun r => decide (r.kind = .confirm)
  | .releaseRequest => s.offers fun r => decide (r.kind = .release)
  | .lookupRequest => s.offers fun r => decide (r.kind = .lookup)
  | .queryRequest => s.offers fun r => decide (r.kind = .query)
  | .amendSet => s.offers fun r => r.isAmend 1
  | .amendClear => s.offers fun r => r.isAmend 2
  | .amendTest => s.offers fun r => r.isAmend 3
  | .amendExchange => s.offers fun r => r.isAmend 4
  | .resizeRequest => s.offers fun r => decide (r.kind = .resize)
  | .moveRequest => s.offers fun r => decide (r.kind = .move)
  | .fetchRequest => s.offers fun r => decide (r.kind = .fetch)
  | .cellStatusRequest => s.offers fun r => decide (r.kind = .cellStatus)
  | .withdrawRequest => s.offers fun r => decide (r.kind = .withdraw)
  | .nullRequest => s.offers fun r => decide (r.kind = .null)
  | .responseSent p => !(s.port p).transmit.isEmpty
  | .setupGuardExpiry i => decide (s.deadlineAt i = some (s.tick, 1))
  | .graceExpiry i => decide (s.deadlineAt i = some (s.tick, 2))
  | .waitExpiry i => decide (s.deadlineAt i = some (s.tick, 3))
  | .supervisionExpiry p => s.supervisionDue p
  | .pulseEnd p => (s.port p).pulseDue s.tick
  | .drainJobStart => s.job.isNone && s.nextJob.isSome
  | .cellDrainStep => match s.job with
    | some (.cellDrain _) => true
    | _ => false
  | .portDrainStep => match s.job with
    | some (.portDrain _) => true
    | _ => false
  | .selectAssert _ _ => true
  | .openTable => s.writesTo fun f _ => decide (f = .tableControl)
  | .tableReset => s.writesTo fun f _ => decide (f = .tableControl)
  | .openCell => s.writesTo isCellCommand
  | .barCell => s.writesTo isCellCommand
  | .unbarCell => s.writesTo isCellCommand
  | .drainCell => s.writesTo isCellCommand
  | .stopDrain => s.writesTo isCellCommand
  | .capacityWrite _ => s.writesTo fun f part => match f, part with
    | .capacity _, .low => true
    | _, _ => false
  | .floorWrite _ => s.writesTo fun f part => match f, part with
    | .floor _, .low => true
    | _, _ => false
  | .thresholdWrite _ => s.writesTo fun f part => match f, part with
    | .threshold1 _, .low => true
    | .threshold2 _, .low => true
    | .threshold3 _, .low => true
    | _, _ => false
  | .ownerPortWrite _ => s.writesTo fun f _ => match f with
    | .owner _ => true
    | _ => false
  | .depthLimitWrite _ => s.writesTo fun f _ => match f with
    | .depthLimit _ => true
    | _ => false
  | .agingWeightWrite _ => s.writesTo fun f part => decide (f = .agingWeight) && decide (part = .low)
  | .supervisionIntervalWrite _ => s.writesTo fun f part => decide (f = .supervision) && decide (part = .low)
  | .attentionWrite _ => s.writesTo fun f _ => match f with
    | .attention _ => true
    | .pulseWidth _ => true
    | _ => false
  | .ringSizeWrite _ => s.writesTo fun f _ => match f with
    | .ringSize _ => true
    | _ => false
  | .eventRawWrite _ => s.writesTo fun f part => decide (f = .eventRaw) && decide (part = .low)
  | .eventEnableWrite _ => s.writesTo fun f part => decide (f = .eventEnable) && decide (part = .low)
  | .highByteRead => match s.transaction with
    | some t => decide (t.direction = .read)
    | none => false
  | .registerWrite b => match s.writeAddress with
    | some a => match locate a with
      | some (f, part) => !f.hasOwnRow part b
      | none => true
    | none => false
  | .selectRelease => true

/-! ### Frames -/

/-- What no request, expiry, drain step or notice changes of the state beside the tables and ports. -/
structure Background where
  pending : List Instr
  tick : Tick
  tableOpen : Bool
  classes : Vector ServiceClass 16
  agingWeight : Nat
  supervision : Nat
  urgentLast : PortIx
  normalLast : PortIx
  job : Option Job
  chosen : Option Job
  eventEnable : BitVec 10
  holding : Byte
  capture : Capture
  transaction : Option Transaction
  dataOut : Option Byte
  freeDraws : Nat
  deriving DecidableEq, Repr

/-- The background of a state. -/
def State.background (s : State) : Background where
  pending := s.pending
  tick := s.tick
  tableOpen := s.tableOpen
  classes := s.classes
  agingWeight := s.agingWeight
  supervision := s.supervision
  urgentLast := s.urgentLast
  normalLast := s.normalLast
  job := s.job
  chosen := s.chosen
  eventEnable := s.eventEnable
  holding := s.holding
  capture := s.capture
  transaction := s.transaction
  dataOut := s.dataOut
  freeDraws := s.freeDraws

/-- The part of a cell's entry that no request, expiry or notice changes: its state, configuration, command result and
drain flag. -/
structure CellSettings where
  state : CellState
  owner : PortIx
  capacity : Nat
  floor : Nat
  t1 : Nat
  t2 : Nat
  t3 : Nat
  hysteresis : Nat
  depthLimit : Nat
  result : CommandResult
  drainFlag : Bool
  deriving DecidableEq, Repr

/-- The settings of a cell. -/
def Cell.settings (k : Cell) : CellSettings where
  state := k.state
  owner := k.owner
  capacity := k.capacity
  floor := k.floor
  t1 := k.t1
  t2 := k.t2
  t3 := k.t3
  hysteresis := k.hysteresis
  depthLimit := k.depthLimit
  result := k.result
  drainFlag := k.drainFlag

/-- The part of a port that no raised notice changes: everything but the ring, the backlog and the attention line. -/
structure PortSide where
  state : PortState
  urgentLane : List Request
  normalLane : List Request
  transmit : List Response
  sent : List Byte
  errorCount : Nat
  timestamp : Tick
  ringSize : Nat
  attnEnable : Bool
  attnPulse : Bool
  attnActiveLow : Bool
  pulseWidth : Nat
  drainFlag : Bool
  deriving DecidableEq, Repr

/-- The side of a port that notices leave alone. -/
def Port.side (q : Port) : PortSide where
  state := q.state
  urgentLane := q.urgentLane
  normalLane := q.normalLane
  transmit := q.transmit
  sent := q.sent
  errorCount := q.errorCount
  timestamp := q.timestamp
  ringSize := q.ringSize
  attnEnable := q.attnEnable
  attnPulse := q.attnPulse
  attnActiveLow := q.attnActiveLow
  pulseWidth := q.pulseWidth
  drainFlag := q.drainFlag

/-- A change that leaves the background, every cell's settings and every port's side as they were. What may differ: the
records, the free list, the directory, the counters, levels and lists of cells, the rings, backlogs and attention lines, and
the raw event flags with the interrupt line. -/
def Quiet (s t : State) : Prop :=
  t.background = s.background ∧ (∀ c, (t.cell c).settings = (s.cell c).settings) ∧ ∀ p, (t.port p).side = (s.port p).side

/-- Records outside a list are as they were. -/
def RecordsKept (s t : State) (changed : List Nat) : Prop :=
  ∀ i, i ∉ changed → t.record i = s.record i

/-- Cells outside a list are as they were. -/
def CellsKept (s t : State) (changed : List CellIx) : Prop :=
  ∀ c, c ∉ changed → t.cell c = s.cell c

/-- Ports outside a list are as they were. -/
def PortsKept (s t : State) (changed : List PortIx) : Prop :=
  ∀ p, p ∉ changed → t.port p = s.port p

/-- The raw event flags and the interrupt line are as they were. -/
def EventsKept (s t : State) : Prop :=
  t.eventRaw = s.eventRaw ∧ t.interruptLine = s.interruptLine

/-- A quiet change that leaves the raw event flags and the interrupt line alone as well. -/
def Still (s t : State) : Prop :=
  Quiet s t ∧ EventsKept s t

/-- The records, the free list and the directory are as they were. -/
def StoreKept (s t : State) : Prop :=
  t.records = s.records ∧ t.freeList = s.freeList ∧ t.directory = s.directory

/-! ### What a command does, in the terms the statements use -/

/-- The command that carries a request out (R171). An Amend whose operation is none of the four belongs to each of the four
Amend commands (log entry 7); here to the first. -/
def commandOf (r : Request) : Instr :=
  match r.kind with
  | .null => .nullRequest
  | .admission => .admitRequest
  | .confirm => .confirmRequest
  | .release => .releaseRequest
  | .lookup => .lookupRequest
  | .query => .queryRequest
  | .amend =>
    if r.operation = 2 then .amendClear
    else if r.operation = 3 then .amendTest
    else if r.operation = 4 then .amendExchange
    else .amendSet
  | .resize => .resizeRequest
  | .move => .moveRequest
  | .fetch => .fetchRequest
  | .cellStatus => .cellStatusRequest
  | .withdraw => .withdrawRequest

/-- The arbiter hands over this request of a kind next, the table is open and the body is in range: the request's own rule
decides its answer. -/
def State.serves (s : State) (kind : RequestKind) (l : Lane) (p : PortIx) (r : Request) : Prop :=
  s.arbiterChoice = some (l, p, r) ∧ r.kind = kind ∧ s.tableOpen = true ∧ r.malformed = false

/-- A handle names a live record of its generation (R6): the record's session and stage. -/
def State.named (s : State) (h : Handle) (ses : Session) (st : Stage) : Prop :=
  s.liveAt h.index = some (ses, st) ∧ s.handleOf h.index = h ∧ h.generation ≠ 0

/-- A handle is resolved for a port (R6): it names a live record of a cell the port owns. -/
def State.resolves (s : State) (p : PortIx) (h : Handle) (ses : Session) (st : Stage) : Prop :=
  s.named h ses st ∧ (s.cell ses.key.cell).owner = p

/-- How many notices a port takes into its ring before it needs the backlog (R152): none while the backlog is in use. -/
def Port.room (q : Port) : Nat :=
  if q.backlog = [] then q.ringSize - q.ring.length else 0

/-- The backlog entry that stands for a notice (R154). -/
def Notice.entry (n : Notice) : BacklogEntry :=
  match n with
  | .session _ _ h _ _ => .record h.index
  | .level c _ => .cell c

/-- What a backlog entry stands for is pending (R4, R154): the record's pending notice, or the cell's pending LEVEL entry.
BacklogsStayExact says that this holds exactly of the entries that stand in a backlog. -/
def State.isPending (s : State) (e : BacklogEntry) : Prop :=
  match e with
  | .record i => (s.record i).pending ≠ none
  | .cell c => (s.cell c).pendingLevel = true

/-- Notices raised for a port in this order are placed by R152. A DRAINING port is left as it was, and nothing becomes pending.
Otherwise the ring takes them at its tail while there is room; the backlog keeps its entries and gains at its tail, in their
order, an entry for each of the rest that had none pending (R154), and no other; what is pending then is what was, and each of
the rest. -/
def Delivers (s t : State) (p : PortIx) (ns : List Notice) : Prop :=
  if (s.port p).state = .draining then t.port p = s.port p ∧ ∀ e, t.isPending e ↔ s.isPending e
  else (t.port p).side = (s.port p).side
    ∧ (t.port p).ring = (s.port p).ring ++ ns.take (s.port p).room
    ∧ (∃ es, (t.port p).backlog = (s.port p).backlog ++ es ∧ es.Nodup
        ∧ es.Sublist ((ns.drop (s.port p).room).map Notice.entry)
        ∧ ∀ e, e ∈ es ↔ e ∈ (ns.drop (s.port p).room).map Notice.entry ∧ ¬ s.isPending e)
    ∧ ∀ e, t.isPending e ↔ s.isPending e ∨ e ∈ (ns.drop (s.port p).room).map Notice.entry

/-- The LEVEL notice that a change of a cell's level raises; none when the level is the same (R136). -/
def levelNotices (s t : State) (c : CellIx) : List Notice :=
  if (t.cell c).level = (s.cell c).level then [] else [.level c (t.cell c).level]

/-- The pending notice of a record after a notice about it is raised behind `ahead` others of the same event (R4, R152): the
new one when it went to the backlog, otherwise as before. -/
def State.pendingAfter (s : State) (p : PortIx) (ahead i : Nat) (n : PendingNotice) : Option PendingNotice :=
  if (s.port p).state = .draining ∨ ahead < (s.port p).room then (s.record i).pending else some n

/-- The notice about a live record, as the backlog keeps it (R4). -/
def State.noticeOf (s : State) (i : Nat) (ses : Session) (kind : SessionNotice) (cause : Cause) : PendingNotice :=
  PendingNotice.mk kind cause (s.record i).generation ses.key.cell ses.requestTag

/-- The notice about a live record, as the ring takes it (R151). -/
def State.ringNotice (s : State) (i : Nat) (ses : Session) (kind : SessionNotice) (cause : Cause) : Notice :=
  .session kind cause (s.handleOf i) ses.key.cell ses.requestTag

/-- A cell's entry is this one, but for its pending LEVEL entry. -/
def CellIs (t : State) (c : CellIx) (k : Cell) : Prop :=
  { t.cell c with pendingLevel := k.pendingLevel } = k

/-- A cell's entry with a record off its lists. -/
def Cell.without (k : Cell) (i : Nat) : Cell :=
  { k with
    rankList := k.rankList.filter fun j => decide (j ≠ i)
    queue := k.queue.filter fun j => decide (j ≠ i)
    enqueueOrder := k.enqueueOrder.filter fun j => decide (j ≠ i) }

/-- The directory lost one key and no other. -/
def KeyDropped (s t : State) (k : Key) : Prop :=
  t.findKey k = none ∧ ∀ k', k' ≠ k → t.findKey k' = s.findKey k'

/-- The directory gained one entry and no other. -/
def KeyAdded (s t : State) (k : Key) (h : Handle) : Prop :=
  t.findKey k = some h ∧ ∀ k', k' ≠ k → t.findKey k' = s.findKey k'

/-- A record under a key was retired, standing in the backlog with this pending notice or not at all (R11): the generation
advanced; SPENT with the notice, or FREE at the free list's tail; no directory entry. -/
def Retired (s t : State) (i : Nat) (k : Key) (pending : Option PendingNotice) : Prop :=
  t.record i = Record.mk (nextGeneration (s.record i).generation) (if pending.isSome then .spent else .free) pending
    ∧ t.freeList = (if pending.isSome then s.freeList else s.freeList ++ [i])
    ∧ KeyDropped s t k

/-- A record made live for a newcomer (R8, R16): the free list's head, keeping its generation, with its directory entry. -/
def Taken (s t : State) (i : Nat) (ses : Session) (st : Stage) : Prop :=
  s.freeList = i :: t.freeList
    ∧ t.record i = Record.mk (s.record i).generation (.live ses st) (s.record i).pending
    ∧ KeyAdded s t ses.key (s.handleOf i)

/-- A record that lost its beneficiary (R61, R64). -/
def Record.unbound (r : Record) : Record :=
  match r.life with
  | .live ses (.ceding stamp _ deadline) => { r with life := .live ses (.ceding stamp none deadline) }
  | _ => r

/-- The records that these handles name have lost their beneficiary; the other records outside a list are as they were. -/
def Unbound (s t : State) (handles : List Handle) (changed : List Nat) : Prop :=
  ∀ j, j ∉ changed → t.record j = if s.handleOf j ∈ handles then (s.record j).unbound else s.record j

/-- After a take: RESERVE was raised when the take brought the free count to 64, and no event otherwise (R10). -/
def ReserveRaised (s t : State) : Prop :=
  if t.freeList.length = 64 then
    t.eventRaw = s.eventRaw ||| 512#10 ∧ t.interruptLine = decide ((s.eventRaw ||| 512#10) &&& s.eventEnable ≠ 0#10)
  else EventsKept s t

/-- A change at one cell that ends in this recompute of its entry, with the LEVEL notice that a change of level raises;
beside the records, nothing else changes but the lists of the record store. -/
def Recounted (s t : State) (c : CellIx) (k : Cell) : Prop :=
  CellIs t c k.recomputed ∧ CellsKept s t [c] ∧ Delivers s t (s.cell c).owner (levelNotices s t c)
    ∧ PortsKept s t [(s.cell c).owner] ∧ Still s t

/-- The session that an Admit creates (R3, R34): its own fields and the copies from its class entry. -/
def State.sessionOf (s : State) (r : Request) : Session :=
  let k := s.classAt r.cls
  Session.mk r.key r.cls
    (if k.emergency = true then 15 else min 14 (min 14 k.level + if r.flags.getLsbD 2 = true then k.boost else 0))
    k.emergency (k.vulnerable && !k.emergency) (max 1 k.grace) k.setupGuard (max 1 (r.halfAt 7).toNat) (r.halfAt 9) r.tag
    (r.flags.getLsbD 2)

/-- The setup guard deadline that forms at a tick: none for a guard of 0 (R48, R60). -/
def guardAt (now : Tick) (guard : Nat) : Option Tick :=
  if guard = 0 then none else some (now + BitVec.ofNat 32 guard)

/-- The record levels, with the level of one record given. -/
def State.levelsWith (s : State) (i level : Nat) (j : Nat) : Nat :=
  if j = i then level else s.levelAt j

/-- A cell's entry with a record of a demand newly in A, on the rank list when it is vulnerable (R37, R48, R60). -/
def State.counted (s : State) (k : Cell) (i : Nat) (ses : Session) : Cell :=
  { k with
    countA := k.countA + ses.demand
    rankList := if ses.vulnerable = true then rankInsert (s.levelsWith i ses.level) i ses.level k.rankList else k.rankList }

/-- A newcomer was enqueued in its cell (R74): its record is QUEUED with the arrival now, the virtual arrival of R72 and the
WAIT deadline of its class, and it stands in its place in the queue. -/
def Enqueued (s t : State) (i : Nat) (ses : Session) : Prop :=
  Taken s t i ses (.queued s.tick (s.tick - BitVec.ofNat 32 (ses.level * s.agingWeight))
      (s.tick + BitVec.ofNat 32 (max 1 (s.classAt ses.cls).maxWait)))
    ∧ RecordsKept s t [i]
    ∧ t.cell ses.key.cell = { s.cell ses.key.cell with
        queue := queueInsert t.emergencyAt t.virtualAt i (s.cell ses.key.cell).queue
        enqueueOrder := (s.cell ses.key.cell).enqueueOrder ++ [i] }
    ∧ CellsKept s t [ses.key.cell] ∧ t.ports = s.ports ∧ Quiet s t ∧ ReserveRaised s t

/-- The queue is full for a newcomer (R75). -/
def State.full (s : State) (c : CellIx) : Prop :=
  (s.cell c).depthLimit ≤ (s.cell c).queue.length ∨ 512 ≤ ((List.finRange 16).map fun d => (s.cell d).queue.length).sum

/-- A write access of the management port stands at an address (R175). -/
def State.writesAt (s : State) (a : Nat) : Prop :=
  s.transaction = some (Transaction.mk .write (BitVec.ofNat 16 a))

/-- The state after a write access at an address: the current address is the next one (R175). -/
def State.pastWrite (s : State) (a : Nat) : State :=
  { s with transaction := some (Transaction.mk .write (BitVec.ofNat 16 (a + 1))) }

/-- A field of some bytes at an offset of a body, most significant byte first (10.6). -/
def fieldAt (body : List Byte) (offset count : Nat) : Nat :=
  ((body.drop offset).take count).foldl (fun n b => n * 256 + b.toNat) 0

/-- The nine bytes of a Fetch response at an offset are those of this notice (10.6): kind, cause, cell, handle, request tag
(GRANT and EXPIRED alone carry one, R151), level; a field its kind does not carry reads as 0. -/
def noticeLaid (b : List Byte) (o : Nat) (n : Notice) : Prop :=
  match n with
  | .session kind cause h cell tag => fieldAt b o 1 = kind.code ∧ fieldAt b (o + 1) 1 = cause.code ∧ fieldAt b (o + 2) 1 = cell.val
    ∧ fieldAt b (o + 3) 2 = h.index % 65536 ∧ fieldAt b (o + 5) 1 = h.generation % 256
    ∧ fieldAt b (o + 6) 2 = (if kind = .grant ∨ kind = .expired then tag.toNat else 0) ∧ fieldAt b (o + 8) 1 = 0
  | .level cell level => fieldAt b o 1 = 5 ∧ fieldAt b (o + 1) 1 = 0 ∧ fieldAt b (o + 2) 1 = cell.val ∧ fieldAt b (o + 3) 2 = 0
    ∧ fieldAt b (o + 5) 1 = 0 ∧ fieldAt b (o + 6) 2 = 0 ∧ fieldAt b (o + 8) 1 = level % 256

/-- The state with a read transaction at an address (R175). -/
def State.readingAt (s : State) (a : Nat) : State :=
  { s with transaction := some (Transaction.mk .read (BitVec.ofNat 16 a)) }

/-- The one-byte field at an address reads as a value, in its lower bits (R175). -/
def State.readsByte (s : State) (a bits v : Nat) : Prop :=
  ∃ t b, exec .highByteRead (s.readingAt a) = .next t ∧ t.dataOut = some b ∧ b.toNat % 2 ^ bits = v % 2 ^ bits

/-- The two-byte field at an address and the next reads as a value, in its lower bits, by a read of its more significant byte
and then of its other (R175, R176). -/
def State.readsHalf (s : State) (a bits v : Nat) : Prop :=
  ∃ t u high low, exec .highByteRead (s.readingAt a) = .next t ∧ t.dataOut = some high
    ∧ exec .highByteRead t = .next u ∧ u.dataOut = some low
    ∧ (high.toNat * 256 + low.toNat) % 2 ^ bits = v % 2 ^ bits

/-- A bit of a byte the window lays out. -/
def placed (b : Bool) (k : Nat) : Nat := if b = true then 2 ^ k else 0

/-- The fields below the ports read as 11.1 lays them out: identification (R181), table status, counts, events, W and S. -/
def State.globalsRead (s : State) : Prop :=
  s.readsByte 0x00 8 0xBE ∧ s.readsHalf 0x01 16 0x3260 ∧ s.readsByte 0x03 8 0x01
    ∧ (∀ busy : Bool, (busy = true ↔ s.job ≠ none ∨ (∃ p, (s.port p).drainFlag = true) ∨ ∃ c, (s.cell c).drainFlag = true) →
      s.readsByte 0x11 2 (placed s.tableOpen 0 + placed busy 1))
    ∧ s.readsHalf 0x12 16 s.freeList.length
    ∧ s.readsHalf 0x14 16 ((List.finRange 16).map fun c => (s.cell c).queue.length).sum
    ∧ s.readsHalf 0x18 10 s.eventRaw.toNat ∧ s.readsHalf 0x1A 10 s.eventEnable.toNat
    ∧ s.readsHalf 0x20 16 s.agingWeight ∧ s.readsHalf 0x22 16 s.supervision

/-- The six bytes of a port read as 11.1 lays them out. -/
def State.portReads (s : State) (p : PortIx) : Prop :=
  (∀ code, code ≤ 3 → (s.port p).ringSize = 64 * 2 ^ code → s.readsByte (0x30 + 6 * p.val) 8 code)
    ∧ s.readsByte (0x31 + 6 * p.val) 3
      (placed (s.port p).attnEnable 0 + placed (s.port p).attnPulse 1 + placed (s.port p).attnActiveLow 2)
    ∧ s.readsByte (0x32 + 6 * p.val) 8 (s.port p).pulseWidth
    ∧ s.readsByte (0x33 + 6 * p.val) 8 (match (s.port p).state with
      | .down => 0
      | .up => 1
      | .draining => 2)
    ∧ s.readsHalf (0x34 + 6 * p.val) 16 (s.port p).errorCount

/-- The 32 bytes of a cell read as 11.1 lays them out. -/
def State.cellReads (s : State) (c : CellIx) : Prop :=
  s.readsByte (0x100 + 32 * c.val) 8 (match (s.cell c).state with
      | .closed => 0
      | .opened => 1
      | .barred => 2
      | .draining => 3)
    ∧ s.readsByte (0x101 + 32 * c.val) 8 (s.cell c).owner.val
    ∧ s.readsHalf (0x102 + 32 * c.val) 16 (s.cell c).capacity ∧ s.readsHalf (0x104 + 32 * c.val) 16 (s.cell c).floor
    ∧ s.readsHalf (0x106 + 32 * c.val) 16 (s.cell c).t1 ∧ s.readsHalf (0x108 + 32 * c.val) 16 (s.cell c).t2
    ∧ s.readsHalf (0x10A + 32 * c.val) 16 (s.cell c).t3
    ∧ s.readsByte (0x10C + 32 * c.val) 8 (s.cell c).hysteresis ∧ s.readsByte (0x10D + 32 * c.val) 8 (s.cell c).depthLimit
    ∧ s.readsHalf (0x10E + 32 * c.val) 16 (s.cell c).countA ∧ s.readsHalf (0x110 + 32 * c.val) 16 (s.cell c).countC
    ∧ s.readsHalf (0x112 + 32 * c.val) 16 (s.cell c).countR ∧ s.readsHalf (0x114 + 32 * c.val) 16 (s.cell c).occupancy
    ∧ s.readsByte (0x116 + 32 * c.val) 8 (s.cell c).level ∧ s.readsByte (0x117 + 32 * c.val) 8 (s.cell c).queue.length
    ∧ s.readsByte (0x119 + 32 * c.val) 8 (if (s.cell c).result = .refused then 1 else 0)

/-- The 16 bytes of a class read as 11.1 lays them out. -/
def State.classReads (s : State) (k : ClassIx) : Prop :=
  s.readsByte (0x400 + 16 * k.val) 8 (s.classAt k).level
    ∧ s.readsByte (0x401 + 16 * k.val) 4 (placed (s.classAt k).emergency 0 + placed (s.classAt k).mayPreempt 1
      + placed (s.classAt k).vulnerable 2 + placed (s.classAt k).mayQueue 3)
    ∧ s.readsByte (0x402 + 16 * k.val) 8 (s.classAt k).boost ∧ s.readsByte (0x403 + 16 * k.val) 8 (s.classAt k).refuseLevel
    ∧ s.readsHalf (0x404 + 16 * k.val) 16 (s.classAt k).setupGuard ∧ s.readsHalf (0x406 + 16 * k.val) 16 (s.classAt k).grace
    ∧ s.readsHalf (0x408 + 16 * k.val) 16 (s.classAt k).maxWait

/-- An address of the window at which 11.1 lists no field. -/
def namesNoField (a : Nat) : Prop :=
  a ≤ 65535 ∧ (4 ≤ a ∧ a ≤ 0xF ∨ a = 0x16 ∨ a = 0x17 ∨ 0x1C ≤ a ∧ a ≤ 0x1F ∨ 0x24 ≤ a ∧ a ≤ 0x2F ∨ 0x48 ≤ a ∧ a ≤ 0xFF
    ∨ 0x100 ≤ a ∧ a ≤ 0x2FF ∧ 0x1A ≤ a % 32 ∨ 0x300 ≤ a ∧ a ≤ 0x3FF ∨ 0x400 ≤ a ∧ a ≤ 0x4FF ∧ 0xA ≤ a % 16 ∨ 0x500 ≤ a)

/-- An address of a field that 11.1 marks read: identification, table status and counts; a port's state and error count; a
cell's state, counters, occupancy, level, queue depth and command result. -/
def isReadOnly (a : Nat) : Prop :=
  a ∈ [0x00, 0x01, 0x02, 0x03, 0x11, 0x12, 0x13, 0x14, 0x15]
    ∨ (∃ (p : PortIx) (o : Nat), o ∈ [3, 4, 5] ∧ a = 0x30 + o + 6 * p.val)
    ∨ ∃ (c : CellIx) (o : Nat), (o = 0 ∨ 0x0E ≤ o ∧ o ≤ 0x17 ∨ o = 0x19) ∧ a = 0x100 + o + 32 * c.val

/-- A record left the live states by retirement, and nothing else changed: it is off its cell's lists as well (R11). -/
def RetiredFrom (s t : State) (i : Nat) (ses : Session) : Prop :=
  Retired s t i ses.key (s.record i).pending ∧ RecordsKept s t [i]
    ∧ t.cell ses.key.cell = (s.cell ses.key.cell).without i ∧ CellsKept s t [ses.key.cell]
    ∧ t.ports = s.ports ∧ Still s t

/-- Only the records, the cell and the ports listed may differ, beside the free list and the directory. -/
def OnlyTouches (s t : State) (records : List Nat) (cells : List CellIx) (ports : List PortIx) : Prop :=
  Still s t ∧ RecordsKept s t records ∧ CellsKept s t cells ∧ PortsKept s t ports

/-- The free list and the directory are as they were. -/
def StoreListsKept (s t : State) : Prop :=
  t.freeList = s.freeList ∧ t.directory = s.directory

/-- Backlog entries left the backlog, in this order (R13, R156): the records lose their pending notice, SPENT ones become
FREE and are appended to the free list, the cells lose their pending LEVEL entry; nothing else of the three changes. -/
def BacklogLeft (s t : State) (es : List BacklogEntry) : Prop :=
  (∀ i, t.record i = if .record i ∈ es then
      Record.mk (s.record i).generation (if (s.record i).life = .spent then .free else (s.record i).life) none
    else s.record i)
    ∧ (∀ c, t.cell c = if .cell c ∈ es then { s.cell c with pendingLevel := false } else s.cell c)
    ∧ t.freeList = s.freeList ++ es.filterMap (fun e => match e with
        | .record i => if (s.record i).life = .spent then some i else none
        | .cell _ => none)
    ∧ t.directory = s.directory

/-- The Drain Engine looked for a job (R140) among the flags as `t` has them, when its choice was that of `s`: one with a job
in progress has none chosen; an idle one keeps a choice it has made, and otherwise chooses the port of lowest number whose flag
is set, the cell of lowest number whose flag is set when no port's is, and nothing when no flag is set. -/
def Chooses (s t : State) : Prop :=
  (t.job ≠ none → t.chosen = none) ∧ (t.job = none → s.chosen ≠ none → t.chosen = s.chosen)
    ∧ (t.job = none → s.chosen = none →
      (∀ p, (t.port p).drainFlag = true → (∀ o : PortIx, o < p → (t.port o).drainFlag = false) → t.chosen = some (.portDrain p))
      ∧ ((∀ p, (t.port p).drainFlag = false) →
        (∀ c, (t.cell c).drainFlag = true → (∀ d : CellIx, d < c → (t.cell d).drainFlag = false) →
          t.chosen = some (.cellDrain c))
        ∧ ((∀ c, (t.cell c).drainFlag = false) → t.chosen = none)))

/-- A port enters DRAINING (R147): the waiting requests are answered PORT_DRAINING, urgent lane first; ring and backlog are
cleared; the line is deasserted; the drain flag is set, and an idle Drain Engine looks for a job (R140); nothing else
changes. -/
def EntersDraining (s t : State) (p : PortIx) : Prop :=
  t.port p = { s.port p with
      state := .draining
      urgentLane := []
      normalLane := []
      transmit := (s.port p).transmit ++ ((s.port p).urgentLane ++ (s.port p).normalLane).map fun r =>
        Response.mk r.kind r.tag .portDraining false false false .empty
      ring := []
      backlog := []
      attnLine := false
      pulseStop := none
      drainFlag := true }
    ∧ PortsKept s t [p] ∧ BacklogLeft s t (s.port p).backlog
    ∧ Chooses s t ∧ t.background = { s.background with chosen := t.chosen } ∧ EventsKept s t

/-- The limit of a requester in a cell (R43): K, or K less the lesser of F and K. -/
def Cell.limitOf (k : Cell) (emergency : Bool) : Nat :=
  if emergency = true then k.capacity else k.capacity - min k.floor k.capacity

/-- The class of an Admit lets it pass checks 3 to 9 of R40 in this state. -/
def State.admitPasses (s : State) (p : PortIx) (r : Request) : Prop :=
  let k := s.cell r.key.cell
  let e := (s.classAt r.cls).emergency
  k.owner = p ∧ s.findKey r.key = none ∧ (k.state = .opened ∨ k.state = .barred ∧ e = true)
    ∧ 1 ≤ (s.classAt r.cls).level ∧ max 1 (r.halfAt 7).toNat ≤ k.limitOf e
    ∧ k.level < (if e = true then 4 else (s.classAt r.cls).refuseLevel)
    ∧ (if e = true then 1 else 65) ≤ s.freeList.length

/-- A newcomer competes directly (R45): the queue is empty, or it stands in a higher tier than the head, or in the head's
tier with an earlier virtual arrival. -/
def State.outranksHead (s : State) (c : CellIx) (ses : Session) : Prop :=
  (s.cell c).queue = [] ∨ ∃ i rest, (s.cell c).queue = i :: rest
    ∧ (ses.emergency = true ∧ s.emergencyAt i = false
      ∨ ses.emergency = s.emergencyAt i
        ∧ earlier (s.tick - BitVec.ofNat 32 (ses.level * s.agingWeight)) (s.virtualAt i) = true)

/-- A requester fits its headroom in a cell (R44, R48): d is at or below L − U, and below 1 when U is at or above L. -/
def State.fits (s : State) (c : CellIx) (emergency : Bool) (d : Nat) : Prop :=
  d ≤ (s.cell c).limitOf emergency - (s.cell c).use

/-- A preemption decision takes these victims (R46, R50 to R52): the requester does not fit and may preempt, and the walk
over the rank list covers its shortfall. -/
def State.takesVictims (s : State) (c : CellIx) (ses : Session) (victims : List Nat) : Prop :=
  ¬ s.fits c ses.emergency ses.demand ∧ ((s.classAt ses.cls).mayPreempt = true ∨ (s.classAt ses.cls).emergency = true
      ∨ ses.emergency = true)
    ∧ ∃ v, s.victimWalk ses.level ((s.cell c).use + ses.demand - (s.cell c).limitOf ses.emergency) 4 0 (s.cell c).rankList
        = (victims, v) ∧ (s.cell c).use + ses.demand - (s.cell c).limitOf ses.emergency ≤ v

/-- A newcomer takes a direct route (R45, R46): it competes, and it fits or a preemption decision takes victims for it. -/
def State.goesDirect (s : State) (c : CellIx) (ses : Session) : Prop :=
  s.outranksHead c ses ∧ (s.fits c ses.emergency ses.demand ∨ ∃ victims, s.takesVictims c ses victims)

/-- What a preemption decision leaves of its victims, its cell and its port (R52, R53), the requester being the record at an
index with a handle: the victims CEDING for it, each with its RELEASE_ORDER; their demands from A to C; the headroom in R. -/
def Preempted (s t : State) (c : CellIx) (ses : Session) (requester : Handle) (victims : List Nat) (k : Cell) : Prop :=
  (∀ n j, victims[n]? = some j → ∃ v st, s.liveAt j = some (v, st) ∧ t.record j = Record.mk (s.record j).generation
      (.live v (.ceding st.stamp (some requester) (after s.tick v.grace)))
      (s.pendingAfter (s.cell c).owner n j (s.noticeOf j v .releaseOrder .preempted)))
    ∧ CellIs t c ({ k with
        countA := (s.cell c).countA - (victims.map s.demandAt).sum
        countC := (s.cell c).countC + (victims.map s.demandAt).sum
        countR := (s.cell c).countR + ((s.cell c).limitOf ses.emergency - (s.cell c).use)
        rankList := (s.cell c).rankList.filter fun j => decide (j ∉ victims) }).recomputed
    ∧ Delivers s t (s.cell c).owner ((victims.filterMap fun j => (s.liveAt j).map fun x =>
        s.ringNotice j x.1 .releaseOrder .preempted) ++ levelNotices s t c)

/-- The command that takes an event that fell due (R116, R124, R161). -/
def Expiry.command (e : Expiry) : Instr :=
  match e with
  | .setupGuard i => .setupGuardExpiry i
  | .grace i => .graceExpiry i
  | .wait i => .waitExpiry i
  | .supervision p => .supervisionExpiry p
  | .pulse p => .pulseEnd p

/-- Nothing is due in a state, and no drain waits for its start: no expiry, no end of a pulse, no DRAIN_JOB_START happens. -/
def State.settled (s : State) : Prop :=
  (∀ e : Expiry, happens e.command s = false) ∧ happens .drainJobStart s = false

/-- The durations that form deadlines and the widths of pulses lie in their ranges (R2, R114, R160). -/
def State.durationsInRange (s : State) : Prop :=
  (∀ i ses st, s.liveAt i = some (ses, st) → 1 ≤ ses.grace ∧ ses.grace ≤ 65535 ∧ ses.setupGuard ≤ 65535)
    ∧ ∀ p, 1 ≤ (s.port p).pulseWidth ∧ (s.port p).pulseWidth ≤ 255

/-- Commands taken one after another; none if one of them did not complete. -/
def State.runs (s : State) (cs : List Instr) : Option State :=
  match cs with
  | [] => some s
  | c :: rest =>
    match exec c s with
    | .next t => t.runs rest
    | _ => none

/-- The state after a number of ticks with nothing else taken; none if one of them did not complete. -/
def State.afterTicks (s : State) (n : Nat) : Option State :=
  match n with
  | 0 => some s
  | m + 1 =>
    match s.afterTicks m with
    | some t => match exec .tick t with
      | .next u => some u
      | _ => none
    | none => none

/-! ### Invariants -/

/-- The interrupt line is asserted exactly while an event has both its raw flag and its enable set (R180). -/
def State.interruptFollows (s : State) : Prop :=
  s.interruptLine = decide (s.eventRaw &&& s.eventEnable ≠ 0#10)

/-- The attention line of a port is what its settings and ring make it (R160, R161): deasserted with no pulse while enable
is clear; asserted while the ring is not empty in LEVEL_MODE; asserted while a pulse runs in PULSE_MODE. -/
def Port.attnFollows (q : Port) : Prop :=
  if q.attnEnable then
    if q.attnPulse then q.attnLine = q.pulseStop.isSome
    else q.attnLine = decide (0 < q.ring.length) ∧ q.pulseStop = none
  else q.attnLine = false ∧ q.pulseStop = none

/-- A ring never holds more than its size, and the backlog is in use only while the ring is full (R153, R154). -/
def Port.ringBounded (q : Port) : Prop :=
  q.ring.length ≤ q.ringSize ∧ (q.backlog ≠ [] → q.ring.length = q.ringSize)

/-- The lanes hold at most 8 and 32 requests (R167). -/
def Port.lanesBounded (q : Port) : Prop :=
  q.urgentLane.length ≤ 8 ∧ q.normalLane.length ≤ 32

/-- A DRAINING port holds no notice (R147, R152, R160). -/
def Port.drainingEmpty (q : Port) : Prop :=
  q.state = .draining → q.ring = [] ∧ q.backlog = [] ∧ q.attnLine = false

/-- The occupancy is that of the cell's present figures (R127, R138); the level lies in 0 to 3, is 0 in a CLOSED cell
(R131), and elsewhere the occupancy lies below the next threshold in use (R130). -/
def Cell.levelFollows (k : Cell) : Prop :=
  k.occupancy = occupancyOf k.capacity k.use ∧ k.level ≤ 3 ∧ (k.state = .closed → k.level = 0)
    ∧ (k.state ≠ .closed → k.level < 3 → k.occupancy < k.threshold (k.level + 1))

/-- The configuration of a cell lies in its ranges (R22, R23). -/
def Cell.inRange (k : Cell) : Prop :=
  k.capacity ≤ 65535 ∧ k.floor ≤ 65535 ∧ (1 ≤ k.t1 ∧ k.t1 ≤ 1000) ∧ (1 ≤ k.t2 ∧ k.t2 ≤ 1000) ∧ (1 ≤ k.t3 ∧ k.t3 ≤ 1000)
    ∧ k.hysteresis ≤ 255 ∧ k.depthLimit ≤ 64

/-- The fields of a class lie in their ranges (R32). -/
def ServiceClass.inRange (k : ServiceClass) : Prop :=
  k.level ≤ 15 ∧ k.boost ≤ 3 ∧ (1 ≤ k.refuseLevel ∧ k.refuseLevel ≤ 4) ∧ k.setupGuard ≤ 65535 ∧ k.grace ≤ 65535
    ∧ k.maxWait ≤ 65535

/-- The settings of a port lie in their ranges (R153, R160, R166). -/
def Port.inRange (q : Port) : Prop :=
  (q.ringSize = 64 ∨ q.ringSize = 128 ∨ q.ringSize = 256 ∨ q.ringSize = 512) ∧ (1 ≤ q.pulseWidth ∧ q.pulseWidth ≤ 255)
    ∧ q.errorCount ≤ 65535

/-- Every written setting lies in its range. -/
def State.settingsInRange (s : State) : Prop :=
  (∀ c, (s.cell c).inRange) ∧ (∀ k, (s.classAt k).inRange) ∧ (∀ p, (s.port p).inRange) ∧ s.agingWeight ≤ 4095
    ∧ s.supervision ≤ 5000

/-- The free list holds each FREE record once and no other (R1); every record that is not FREE has an index below 16,384. -/
def State.freeListExact (s : State) : Prop :=
  s.freeList.Nodup ∧ (∀ i, i ∈ s.freeList ↔ i < Config.recordCount ∧ (s.record i).life = .free)
    ∧ ∀ i, (s.record i).life ≠ .free → i < Config.recordCount

/-- No FREE record has a pending notice, and every SPENT record has one (R1, R13). -/
def State.pendingExact (s : State) : Prop :=
  ∀ i, ((s.record i).life = .free → (s.record i).pending = none) ∧ ((s.record i).life = .spent → (s.record i).pending ≠ none)

/-- The generations lie in 1 to 255 (R2, R5). -/
def State.generationsInRange (s : State) : Prop :=
  ∀ i, 1 ≤ (s.record i).generation ∧ (s.record i).generation ≤ 255

/-- The directory maps the key of every live record to its handle, and no other key (R15). -/
def State.directoryExact (s : State) : Prop :=
  ∀ k h, s.findKey k = some h ↔ ∃ ses st, s.liveAt h.index = some (ses, st) ∧ ses.key = k ∧ s.handleOf h.index = h

/-- The sparse stores are in their canonical form: keys rising, and no record listed that pin reset left as it is. -/
def State.storeCanonical (s : State) : Bool :=
  sparseSorted s.records && (s.records.all fun e => decide (e.2 ≠ Record.fresh)) && sparseSorted s.directory

/-- The backlogs are exact (R4, R154): a record has a pending notice exactly when it stands in a backlog, and stands in one
alone; a cell has a pending LEVEL entry exactly when it stands in its owner port's backlog, and stands in no other; no entry
stands twice. -/
def State.backlogExact (s : State) : Prop :=
  (∀ i, (s.record i).pending ≠ none ↔ ∃ p, .record i ∈ (s.port p).backlog)
    ∧ (∀ i p o, .record i ∈ (s.port p).backlog → .record i ∈ (s.port o).backlog → p = o)
    ∧ (∀ c, (s.cell c).pendingLevel = true ↔ .cell c ∈ (s.port (s.cell c).owner).backlog)
    ∧ (∀ c p, .cell c ∈ (s.port p).backlog → p = (s.cell c).owner)
    ∧ ∀ p, (s.port p).backlog.Nodup

/-- The Drain Engine is exact (R139, R140, R144, R145, R148): it has a choice only while idle, and of a pending drain; an idle
one that has chosen nothing has no flag set; a port or cell is DRAINING exactly while its drain is pending or in progress, and
never both; no request waits at a port that is not UP (R147, R163, R167). -/
def State.engineExact (s : State) : Prop :=
  (s.job ≠ none → s.chosen = none)
    ∧ (s.job = none → s.chosen = none → (∀ p, (s.port p).drainFlag = false) ∧ ∀ c, (s.cell c).drainFlag = false)
    ∧ (∀ p, (s.chosen = some (.portDrain p) → (s.port p).drainFlag = true)
      ∧ ((s.port p).state = .draining ↔ (s.port p).drainFlag = true ∨ s.job = some (.portDrain p))
      ∧ ¬ ((s.port p).drainFlag = true ∧ s.job = some (.portDrain p))
      ∧ ((s.port p).state ≠ .up → (s.port p).urgentLane = [] ∧ (s.port p).normalLane = []))
    ∧ ∀ c, (s.chosen = some (.cellDrain c) → (s.cell c).drainFlag = true)
      ∧ ((s.cell c).state = .draining ↔ (s.cell c).drainFlag = true ∨ s.job = some (.cellDrain c))
      ∧ ¬ ((s.cell c).drainFlag = true ∧ s.job = some (.cellDrain c))

/-- The record store is exact: the five invariants above together. -/
def State.storeExact (s : State) : Prop :=
  s.freeListExact ∧ s.pendingExact ∧ s.generationsInRange ∧ s.directoryExact ∧ s.storeCanonical = true

/-- The sum, over the live records of a cell, of a figure of each. -/
def State.sumOver (s : State) (c : CellIx) (f : Session → Stage → Nat) : Nat :=
  ((s.liveIn c).map fun i => match s.liveAt i with
    | some (ses, st) => f ses st
    | none => 0).sum

/-- What a record counts in A (R30): its demand in SETUP or ACTIVE. -/
def countsA (ses : Session) (st : Stage) : Nat :=
  match st with
  | .setup _ _ => ses.demand
  | .active _ => ses.demand
  | _ => 0

/-- What a record counts in C: its demand while CEDING. -/
def countsC (ses : Session) (st : Stage) : Nat :=
  match st with
  | .ceding _ _ _ => ses.demand
  | _ => 0

/-- What a record counts in R: headroom reserved plus collected while HELD. -/
def countsR (_ses : Session) (st : Stage) : Nat :=
  match st with
  | .held _ _ reserved collected => reserved + collected
  | _ => 0

/-- A stage of a record that waits in a queue. -/
def Stage.isQueued (st : Stage) : Bool :=
  match st with
  | .queued _ _ _ => true
  | _ => false

/-- The counters, queue and rank list of a cell are those of its records (R30, R36, R70), every
emergency record stands ahead of every other in the queue (R71), and the rank list is in ascending level (R36). -/
def State.cellExact (s : State) (c : CellIx) : Prop :=
  (s.cell c).countA = s.sumOver c countsA ∧ (s.cell c).countC = s.sumOver c countsC ∧ (s.cell c).countR = s.sumOver c countsR
    ∧ (s.cell c).queue.Nodup ∧ (s.cell c).enqueueOrder.Perm (s.cell c).queue
    ∧ (∀ i, i ∈ (s.cell c).queue ↔ ∃ ses st, s.liveAt i = some (ses, st) ∧ ses.key.cell = c ∧ st.isQueued = true)
    ∧ (s.cell c).queue.Pairwise (fun i j => s.emergencyAt j = true → s.emergencyAt i = true)
    ∧ (s.cell c).rankList.Nodup
    ∧ (∀ i, i ∈ (s.cell c).rankList
        ↔ ∃ ses st, s.liveAt i = some (ses, st) ∧ ses.key.cell = c ∧ st.isAdmitted = true ∧ ses.vulnerable = true)
    ∧ (s.cell c).rankList.Pairwise (fun i j => s.levelAt i ≤ s.levelAt j)

/-- The bond of a HELD record with its victims (R55, R56): at least one and at most four, each once, each a CEDING record of
the same cell and of lower level that owes its units to it; it has collected less than it needs, and what the victims still
hold covers the rest. -/
def State.heldExact (s : State) (i : Nat) : Prop :=
  ∀ ses victims need reserved collected, s.liveAt i = some (ses, .held victims need reserved collected) →
    1 ≤ victims.length ∧ victims.length ≤ 4 ∧ victims.Nodup ∧ collected < need
    ∧ need ≤ collected + (victims.map fun h => s.demandAt h.index).sum
    ∧ ∀ h, h ∈ victims → ∃ v stamp deadline, s.named h v (.ceding stamp (some (s.handleOf i)) deadline)
        ∧ v.key.cell = ses.key.cell ∧ v.level < ses.level

/-- The bond of a CEDING record with its beneficiary (R56): a HELD record that lists it. -/
def State.cedingExact (s : State) (i : Nat) : Prop :=
  ∀ ses stamp b deadline, s.liveAt i = some (ses, .ceding stamp (some b) deadline) →
    ∃ h victims need reserved collected, s.named b h (.held victims need reserved collected) ∧ s.handleOf i ∈ victims

/-- The accounts of every cell and the bonds of every record are exact, every demand is at least 1, and no record with the
emergency flag is vulnerable (R2). -/
def State.accountsExact (s : State) : Prop :=
  (∀ c, s.cellExact c) ∧ (∀ i, s.heldExact i ∧ s.cedingExact i)
    ∧ (∀ i ses st, s.liveAt i = some (ses, st) → 1 ≤ ses.demand ∧ (ses.emergency = true → ses.vulnerable = false))

end Sys2Proof.Machine
end

