-- ==== Sys2Proof/Certificates/Slice0/Obligations.lean ====
section
/-! DEFINITION. The statements for the provers. `w` is the state that a command's own change leaves, before its answer is handed to the Client Link and before a queue service pass that follows it. -/

open Sys2Proof Sys2Proof.Machine

/-! ### The machine as a whole -/

/-- A step runs the command at the front of the queue on the state with the queue's rest; on an empty queue the block idles
(the model's own, log entry 2). -/
def Obligations.StepRunsFrontCommand : Prop :=
  (∀ (c : Instr) (rest : List Instr) (s : State), s.pending = c :: rest → step s = exec c { s with pending := rest })
  ∧ ∀ s : State, s.pending = [] → step s = .next s

/-- Every command answers a next state and leaves the queue of commands alone; one whose event cannot be taken in the state
changes nothing (the model's own, log entries 6, 8 and 10). -/
def Obligations.CommandsCompleteAndKeepTheQueue : Prop :=
  ∀ (c : Instr) (s : State), ∃ t, exec c s = .next t ∧ t.pending = s.pending ∧ (happens c s = false → t = s)

/-- Only TICK and PIN_RESET change the tick (R113), and the class table, the aging weight, the supervision interval and the
configuration of a cell are changed by PIN_RESET and by the writes of the register window alone (R22, R32, R123). -/
def Obligations.ConfigurationChangesByWritesAlone : Prop :=
  ∀ (c : Instr) (s t : State), exec c s = .next t →
    (c ≠ .tick → c ≠ .pinReset → t.tick = s.tick)
    ∧ ((∀ b, c ≠ .registerWrite b) → c ≠ .pinReset → t.classes = s.classes)
    ∧ ((∀ b, c ≠ .agingWeightWrite b) → c ≠ .pinReset → t.agingWeight = s.agingWeight)
    ∧ ((∀ b, c ≠ .supervisionIntervalWrite b) → c ≠ .pinReset → t.supervision = s.supervision)
    ∧ ((∀ b, c ≠ .capacityWrite b) → c ≠ .pinReset → ∀ d, (t.cell d).capacity = (s.cell d).capacity)
    ∧ ((∀ b, c ≠ .floorWrite b) → c ≠ .pinReset → ∀ d, (t.cell d).floor = (s.cell d).floor)
    ∧ ((∀ b, c ≠ .thresholdWrite b) → c ≠ .pinReset → ∀ d,
        (t.cell d).t1 = (s.cell d).t1 ∧ (t.cell d).t2 = (s.cell d).t2 ∧ (t.cell d).t3 = (s.cell d).t3)
    ∧ ((∀ b, c ≠ .registerWrite b) → c ≠ .pinReset → ∀ d, (t.cell d).hysteresis = (s.cell d).hysteresis)
    ∧ ((∀ b, c ≠ .ownerPortWrite b) → c ≠ .pinReset → ∀ d, (t.cell d).owner = (s.cell d).owner)
    ∧ ((∀ b, c ≠ .depthLimitWrite b) → c ≠ .pinReset → ∀ d, (t.cell d).depthLimit = (s.cell d).depthLimit)

/-- Every step keeps the interrupt line asserted exactly while an event has both its raw flag and its enable set, and the
line is deasserted at pin reset (R180). -/
def Obligations.InterruptLineFollowsEvents : Prop :=
  (∀ s t : State, s.interruptFollows → step s = .next t → t.interruptFollows)
  ∧ State.reset.interruptFollows ∧ State.reset.interruptLine = false

/-- Every step keeps, at each port: the ring within its size and the backlog in use only while the ring is full; the
attention line as its settings, ring and pulse make it; a DRAINING port without a notice and with its line deasserted (R153,
R154, R160, R161, R147). -/
def Obligations.NoticeStoresStayBounded : Prop :=
  ∀ s t : State, (∀ p, (s.port p).ringBounded ∧ (s.port p).attnFollows ∧ (s.port p).drainingEmpty) → step s = .next t →
    ∀ p, (t.port p).ringBounded ∧ (t.port p).attnFollows ∧ (t.port p).drainingEmpty

/-- Every step keeps the backlogs exact: pending notices and pending LEVEL entries stand in one backlog each, once, and in
no other place (R4, R23, R29, R154, R156). -/
def Obligations.BacklogsStayExact : Prop :=
  ∀ s t : State, s.backlogExact → step s = .next t → t.backlogExact

/-- Every step keeps, in each cell: the occupancy that of the present figures; the level in 0 to 3, held at 0 while CLOSED,
and otherwise such that the occupancy lies below the next threshold in use (R127, R130, R131, R138). -/
def Obligations.LevelsFollowTheFigures : Prop :=
  ∀ s t : State, (∀ c, (s.cell c).levelFollows) → step s = .next t → ∀ c, (t.cell c).levelFollows

/-- Every step keeps the record store exact: the free list holds each FREE record once and no other; no FREE record has a
pending notice and every SPENT record has one; generations lie in 1 to 255; the directory maps the key of each live record to
its handle and nothing else; the stores keep their canonical form (R1, R5, R8, R11, R13, R14, R15, R16). -/
def Obligations.RecordStoreStaysExact : Prop :=
  ∀ s t : State, s.storeExact → step s = .next t → t.storeExact

/-- Every step keeps every written setting in its range and the lanes within their sizes (R22, R23, R32, R72, R123, R153,
R160, R166, R167), and keeps the Drain Engine exact: a port or cell is DRAINING exactly while its drain is pending or in
progress, never both; an idle engine with a pending drain has chosen one; no request waits at a port that is not UP (R139, R140,
R144, R145, R147, R148; that the choice is a field of its own is the model's, log entry 16). -/
def Obligations.SettingsAndLanesStayInRange : Prop :=
  (∀ s t : State, s.settingsInRange → (∀ p, (s.port p).lanesBounded) → step s = .next t →
    t.settingsInRange ∧ ∀ p, (t.port p).lanesBounded)
  ∧ ∀ s t : State, s.engineExact → step s = .next t → t.engineExact

/-- Every step keeps the accounts of each cell exact: A, C and R are the sums of R30; the wait queue and the rank list hold
the records that R70 and R36 name, each queue with its emergency records first and each rank list in ascending level;
requesters and victims are bound in both directions and a
requester's victims still cover its need (R55, R56). -/
def Obligations.CellAccountsStayExact : Prop :=
  ∀ s t : State, s.storeExact → s.accountsExact → step s = .next t → t.accountsExact

/-- The state right after pin reset meets the invariants. -/
def Obligations.ResetMeetsTheInvariants : Prop :=
  State.reset.interruptFollows ∧ State.reset.storeExact ∧ State.reset.backlogExact ∧ State.reset.accountsExact ∧ State.reset.settingsInRange
  ∧ State.reset.engineExact
  ∧ (∀ c, (State.reset.cell c).levelFollows)
  ∧ ∀ p, (State.reset.port p).ringBounded ∧ (State.reset.port p).attnFollows ∧ (State.reset.port p).drainingEmpty
      ∧ (State.reset.port p).lanesBounded

/-! ### Resets, time and events -/

/-- Pin reset (R7, R22, R32, R69, R70, R113, R115, R123, R139, R153, R156, R160, R163, R166, R168, R169, R172, R176, R181):
what it leaves in every block, from every state. The queue of commands and the count of free values are the model's own
(log entry 15), and so is the engine's choice (log entry 16). -/
def Obligations.PinResetLeavesTheResetValues : Prop :=
  ∀ s : State, ∃ t, exec .pinReset s = .next t
    ∧ t.tick = 0 ∧ t.tableOpen = false
    ∧ (∀ i, t.record i = Record.mk 1 .free none) ∧ t.freeList = List.range 16384 ∧ (∀ k, t.findKey k = none)
    ∧ (∀ c, (t.cell c).state = .closed ∧ (t.cell c).owner = 0 ∧ (t.cell c).capacity = 0 ∧ (t.cell c).floor = 0
        ∧ (t.cell c).t1 = 700 ∧ (t.cell c).t2 = 850 ∧ (t.cell c).t3 = 950 ∧ (t.cell c).hysteresis = 50
        ∧ (t.cell c).depthLimit = 16 ∧ (t.cell c).use = 0 ∧ (t.cell c).occupancy = 1000 ∧ (t.cell c).level = 0
        ∧ (t.cell c).result = .done ∧ (t.cell c).queue = [] ∧ (t.cell c).rankList = [] ∧ (t.cell c).pendingLevel = false
        ∧ (t.cell c).drainFlag = false)
    ∧ (∀ k, t.classAt k = ServiceClass.mk 0 false false false false 0 4 0 0 0)
    ∧ (∀ p, (t.port p).state = .down ∧ (t.port p).urgentLane = [] ∧ (t.port p).normalLane = [] ∧ (t.port p).transmit = []
        ∧ (t.port p).errorCount = 0 ∧ (t.port p).timestamp = 0 ∧ (t.port p).ring = [] ∧ (t.port p).ringSize = 256
        ∧ (t.port p).backlog = [] ∧ (t.port p).attnEnable = false ∧ (t.port p).attnPulse = false
        ∧ (t.port p).attnActiveLow = false ∧ (t.port p).pulseWidth = 20 ∧ (t.port p).attnOutput = false
        ∧ (t.port p).drainFlag = false)
    ∧ t.agingWeight = 1000 ∧ t.supervision = 0 ∧ t.urgentLast = 3 ∧ t.normalLast = 3 ∧ t.job = none ∧ t.chosen = none
    ∧ t.eventRaw = 0 ∧ t.eventEnable = 0 ∧ t.interruptLine = false ∧ t.holding = 0 ∧ t.capture.value = 0
    ∧ t.pending = s.pending ∧ t.freeDraws = s.freeDraws

/-- TICK advances the tick by one (R113). Where nothing is due and no drain waits for its start, it changes nothing else. What
is due at the tick it leaves is taken first, each event as its own command takes it, one after another in an order left open
(R116, R124, R161), and then the drains that start at once (R140); with durations in their ranges nothing is due there any
more, so no expiry is passed by. That TICK itself takes what was not taken yet is the model's own (log entries 8 and 16). A
deadline formed at a tick from a duration of 1 to 65,535 ms is met after exactly that many ticks, and is later than the tick
until then (R114). -/
def Obligations.TicksMeetADeadlineOnce : Prop :=
  (∀ s : State, s.settled → exec .tick s = .next { s with tick := s.tick + 1 })
  ∧ (∀ s : State, s.storeCanonical = true → ∃ (order : List Expiry) (t u : State), order.Nodup
    ∧ (∀ e, e ∈ order ↔ happens e.command s = true)
    ∧ s.runs (order.map Expiry.command ++ List.replicate 20 .drainJobStart) = some t
    ∧ exec .tick s = .next u ∧ u.tick = s.tick + 1 ∧ { u with tick := t.tick, freeDraws := t.freeDraws } = t
    ∧ (s.durationsInRange → ∀ e : Expiry, happens e.command t = false))
  ∧ ∀ (s : State) (n d : Nat), 1 ≤ d → d ≤ 65535 → n ≤ d → (∀ m t, m < n → s.afterTicks m = some t → t.settled) →
    ∃ t, s.afterTicks n = some t ∧ t.tick = s.tick + BitVec.ofNat 32 n ∧ { t with tick := s.tick } = s
      ∧ (t.tick = after s.tick d ↔ n = d) ∧ (n < d → earlier t.tick (after s.tick d) = true)

/-- A raising sets the raw flag whatever its enable, a write to the raw field clears the flags whose bit is one, a write to
the enable field sets the enables, and the interrupt line follows each at once (R176, R179, R180). -/
def Obligations.EventWritesMoveTheInterruptLine : Prop :=
  (∀ (s : State) (b : Byte) (t0 : Transaction), s.transaction = some t0 → t0.direction = .write → t0.address = 0x0019#16 →
    ∃ t, exec (.eventRawWrite b) s = .next t
      ∧ (∀ k, t.eventRaw.getLsbD k = (s.eventRaw.getLsbD k && !(s.holding ++ b).getLsbD k))
      ∧ t.interruptLine = decide (t.eventRaw &&& s.eventEnable ≠ 0#10)
      ∧ t.transaction = some (Transaction.mk .write 0x001A#16)
      ∧ { t with eventRaw := s.eventRaw, interruptLine := s.interruptLine, transaction := s.transaction } = s)
  ∧ (∀ (s : State) (b : Byte) (t0 : Transaction), s.transaction = some t0 → t0.direction = .write → t0.address = 0x001B#16 →
    ∃ t, exec (.eventEnableWrite b) s = .next t
      ∧ (∀ k, k < 10 → t.eventEnable.getLsbD k = (s.holding ++ b).getLsbD k)
      ∧ t.interruptLine = decide (s.eventRaw &&& t.eventEnable ≠ 0#10)
      ∧ t.transaction = some (Transaction.mk .write 0x001C#16)
      ∧ { t with eventEnable := s.eventEnable, interruptLine := s.interruptLine, transaction := s.transaction } = s)
  ∧ ∀ (s : State) (flag : BitVec 10),
      (s.raiseEvent flag).eventRaw = s.eventRaw ||| flag
      ∧ (s.raiseEvent flag).interruptLine = decide ((s.eventRaw ||| flag) &&& s.eventEnable ≠ 0#10)

/-! ### The request link -/

/-- A whole frame whose check does not agree, whose kind byte names no kind, or whose body length is not its kind's, is
discarded: the port's error count rises by one up to 65,535, LINK_ERROR is raised, and nothing else changes (R164, R166). -/
def Obligations.InvalidFramesAreCountedAndDiscarded : Prop :=
  ∀ (s : State) (p : PortIx) (kind flags th tl len c1 c2 : Byte) (body : List Byte), body.length = len.toNat →
    (frameCheck ([kind, flags, th, tl, len] ++ body) ≠ c1 ++ c2
      ∨ kindOfCode kind = none ∨ ∃ k, kindOfCode kind = some k ∧ k.bodyLength ≠ len.toNat) →
    ∃ t, exec (.frameArrival p (0xA6#8 :: kind :: flags :: th :: tl :: len :: (body ++ [c1, c2]))) s = .next t
      ∧ t.port p = { s.port p with errorCount := min 65535 ((s.port p).errorCount + 1) } ∧ PortsKept s t [p]
      ∧ t.eventRaw = s.eventRaw ||| (1#10 <<< (4 + p.val))
      ∧ t.interruptLine = decide (t.eventRaw &&& s.eventEnable ≠ 0#10)
      ∧ { t with ports := s.ports, eventRaw := s.eventRaw, interruptLine := s.interruptLine } = s

/-- A valid frame at a DRAINING port is answered PORT_DRAINING and nothing else; at a DOWN or UP port the port is UP, its
supervision timestamp is now, and the request stands at the tail of its lane, or is answered BUSY when the lane is full
(R123, R163, R164, R167). -/
def Obligations.ValidFramesArePlacedOrAnswered : Prop :=
  ∀ (s : State) (p : PortIx) (k : RequestKind) (flags th tl c1 c2 : Byte) (body : List Byte) (r : Request),
    body.length = k.bodyLength →
    frameCheck ([k.code, flags, th, tl, BitVec.ofNat 8 k.bodyLength] ++ body) = c1 ++ c2 →
    r = Request.mk k flags (th ++ tl) body →
    ∃ t, exec (.frameArrival p (0xA6#8 :: k.code :: flags :: th :: tl :: BitVec.ofNat 8 k.bodyLength :: (body ++ [c1, c2]))) s
        = .next t
      ∧ PortsKept s t [p] ∧ { t with ports := s.ports } = s
      ∧ (r.lane = .urgent ↔ flags.getLsbD 0 = true ∧ (k = .admission ∨ k = .release))
      ∧ ((s.port p).state = .draining → t.port p = { s.port p with
            transmit := (s.port p).transmit ++ [Response.mk k (th ++ tl) .portDraining false false false .empty] })
      ∧ ((s.port p).state ≠ .draining →
          if ((s.port p).lane r.lane).length < (if r.lane = .urgent then 8 else 32) then
            t.port p = ({ s.port p with state := .up, timestamp := s.tick } : Port).setLane r.lane
              ((s.port p).lane r.lane ++ [r])
          else t.port p = { s.port p with
            state := .up
            timestamp := s.tick
            transmit := (s.port p).transmit ++ [Response.mk k (th ++ tl) .busy false false false .empty] })

/-- An answer is appended to its port's transmit order with the request's kind and tag and changes nothing else; the head of
the order is sent as a frame and leaves it, and nothing else changes but the model's count of free values (R172, R174). -/
def Obligations.ResponsesJoinAndLeaveTheTransmitOrder : Prop :=
  (∀ (s : State) (p : PortIx) (r : Response) (rest : List Response), (s.port p).transmit = r :: rest →
    ∃ t f0 f1 f2, exec (.responseSent p) s = .next t
      ∧ t.port p = { s.port p with transmit := rest, sent := r.frame f0 f1 f2 } ∧ PortsKept s t [p]
      ∧ { t with ports := s.ports, freeDraws := s.freeDraws } = s)
  ∧ (∀ (s : State) (p : PortIx) (r : Request) (a : Reply),
    (s.answer p r a).port p = { s.port p with
      transmit := (s.port p).transmit ++ [Response.mk r.kind r.tag a.status a.zero a.isMatch a.clamped a.body] }
    ∧ PortsKept s (s.answer p r a) [p] ∧ { s.answer p r a with ports := s.ports } = s)

/-- A response frame: the delimiter, the kind with its top bit set, the status code, the conditions in bits 0 to 2, the tag,
the body length, the body, and a check that agrees with all but the delimiter (R165, R174, 10.6). What the bits 3 to 7 of the
conditions byte hold is left open. The body of each kind has the length the body table gives, its fields in the order given,
most significant byte first, with the codes of 10.5 and 10.6; the Query body's fields are those of QueryBodyLaysTheFieldsOut.
That a Fetch's backlog flag is 1 when set is the model's reading (log entry 17). -/
def Obligations.ResponseFramesAreLaidOut : Prop :=
  (∀ (r : Response) (f0 f1 f2 : Half), ∃ (conditions th tl c1 c2 : Byte),
    r.frame f0 f1 f2 = 0xA6#8 :: (r.kind.code ||| 0x80#8) :: BitVec.ofNat 8 r.status.code :: conditions :: th :: tl
        :: BitVec.ofNat 8 (bodyBytes r.body f1 f2).length :: (bodyBytes r.body f1 f2 ++ [c1, c2])
    ∧ conditions.getLsbD 0 = r.zero ∧ conditions.getLsbD 1 = r.isMatch ∧ conditions.getLsbD 2 = r.clamped
    ∧ th ++ tl = r.tag
    ∧ frameCheck ((r.kind.code ||| 0x80#8) :: BitVec.ofNat 8 r.status.code :: conditions :: th :: tl
        :: BitVec.ofNat 8 (bodyBytes r.body f1 f2).length :: bodyBytes r.body f1 f2) = c1 ++ c2)
  ∧ (∀ (b : ResponseBody) (f1 f2 : Half), (bodyBytes b f1 f2).length = match b with
    | .empty => 0
    | .handle _ => 3
    | .handleState _ _ => 4
    | .lookup _ _ _ _ _ => 8
    | .query _ _ => 68
    | .amend _ _ => 4
    | .demand _ => 2
    | .move _ _ _ => 5
    | .fetch notices _ _ => 4 + 9 * notices.length
    | .cellStatus _ _ _ _ _ _ _ _ _ _ _ => 19)
  ∧ (∀ (body : ResponseBody) (f1 f2 : Half) (b : List Byte), b = bodyBytes body f1 f2 → match body with
    | .empty => True
    | .handle h => fieldAt b 0 2 = h.index % 65536 ∧ fieldAt b 2 1 = h.generation % 256
    | .handleState h st => fieldAt b 0 2 = h.index % 65536 ∧ fieldAt b 2 1 = h.generation % 256 ∧ fieldAt b 3 1 = st.code
    | .lookup h st cls level demand => fieldAt b 0 2 = h.index % 65536 ∧ fieldAt b 2 1 = h.generation % 256
      ∧ fieldAt b 3 1 = st.code ∧ fieldAt b 4 1 = cls.val ∧ fieldAt b 5 1 = level % 256 ∧ fieldAt b 6 2 = demand % 65536
    | .query _ _ => True
    | .amend old new => fieldAt b 0 2 = old.toNat ∧ fieldAt b 2 2 = new.toNat
    | .demand d => fieldAt b 0 2 = d % 65536
    | .move h target level => fieldAt b 0 2 = h.index % 65536 ∧ fieldAt b 2 1 = h.generation % 256 ∧ fieldAt b 3 1 = target.val
      ∧ fieldAt b 4 1 = level % 256
    | .fetch notices ringCount flag => fieldAt b 0 1 = notices.length % 256 ∧ fieldAt b 1 2 = ringCount % 65536
      ∧ fieldAt b 3 1 = (if flag = true then 1 else 0) ∧ ∀ j n, notices[j]? = some n → noticeLaid b (4 + 9 * j) n
    | .cellStatus st k f a c r u o level depth sessions => fieldAt b 0 1 = st.code ∧ fieldAt b 1 2 = k % 65536
      ∧ fieldAt b 3 2 = f % 65536 ∧ fieldAt b 5 2 = a % 65536 ∧ fieldAt b 7 2 = c % 65536 ∧ fieldAt b 9 2 = r % 65536
      ∧ fieldAt b 11 2 = u % 65536 ∧ fieldAt b 13 2 = o % 65536 ∧ fieldAt b 15 1 = level % 256 ∧ fieldAt b 16 1 = depth % 256
      ∧ fieldAt b 17 2 = sessions % 65536)
  ∧ [RecordState.free, .queued, .held, .setup, .active, .ceding, .spent].map RecordState.code = List.range 7
  ∧ [CellState.closed, .opened, .barred, .draining].map CellState.code = List.range 4
  ∧ [SessionNotice.grant, .releaseOrder, .forcedOut, .expired].map SessionNotice.code = List.range' 1 4
  ∧ [Cause.fromQueue, .fromHold, .preempted, .graceExpired, .drained, .setupTimeout, .waitTimeout, .displaced].map Cause.code
    = List.range' 1 8
  ∧ [Status.ok, .queued, .held, .duplicate, .stale, .wrongState, .noRoom, .tooLarge, .congested, .cellClosed, .cellBarred,
      .cellDraining, .notOwner, .classClosed, .queueFull, .tableFull, .notReady, .badRequest, .portDraining, .busy].map Status.code
    = List.range 20

/-- The arbiter hands over nothing only when every lane is empty. What it hands over is the head of a lane: of a normal lane
only while every urgent lane is empty, and of the first port after the pointer of that kind of lane whose lane is not empty.
Serving it takes it off its lane, moves that pointer to its port, and changes nothing else (R167, R169). -/
def Obligations.TheArbiterServesUrgentLanesFirstInTurn : Prop :=
  ∀ s : State,
    (s.arbiterChoice = none ↔ ∀ p, (s.port p).urgentLane = [] ∧ (s.port p).normalLane = [])
    ∧ ∀ l p r, s.arbiterChoice = some (l, p, r) →
        ((s.port p).lane l).head? = some r
        ∧ (l = .normal → ∀ o, (s.port o).urgentLane = [])
        ∧ (∀ o : PortIx, (o - (if l = .urgent then s.urgentLast else s.normalLast) - 1).val
              < (p - (if l = .urgent then s.urgentLast else s.normalLast) - 1).val → (s.port o).lane l = [])
        ∧ ((s.handOver l p).port p).setLane l ((s.port p).lane l) = s.port p
        ∧ ((s.handOver l p).port p).lane l = ((s.port p).lane l).tail
        ∧ PortsKept s (s.handOver l p) [p]
        ∧ (s.handOver l p).urgentLast = (if l = .urgent then p else s.urgentLast)
        ∧ (s.handOver l p).normalLast = (if l = .urgent then s.normalLast else p)
        ∧ { s.handOver l p with ports := s.ports, urgentLast := s.urgentLast, normalLast := s.normalLast } = s

/-! ### Answers that come before a request's own rule -/

/-- While the table is closed, every request but Withdraw is answered NOT_READY and nothing else happens (R171, R177). While it
is open, a body with a field outside its range, or an urgent-lane Admit of a class that is no emergency class, is answered
BAD_REQUEST with clear conditions and nothing else happens (R41, R173). -/
def Obligations.RequestsAreCheckedBeforeTheirRule : Prop :=
  (∀ (s : State) (l : Lane) (p : PortIx) (r : Request), s.arbiterChoice = some (l, p, r) → r.kind ≠ .withdraw →
    s.tableOpen = false → exec (commandOf r) s = .next ((s.handOver l p).answer p r (bare .notReady)))
  ∧ (∀ (s : State) (l : Lane) (p : PortIx) (r : Request), s.arbiterChoice = some (l, p, r) → s.tableOpen = true →
    ((r.kind = .admission ∨ r.kind = .lookup) ∧ (15 < r.byteAt 0 ∨ 15 < r.byteAt 5)
      ∨ r.kind = .admission ∧ (15 < r.byteAt 6 ∨ 4095 < (r.halfAt 7).toNat)
      ∨ r.kind = .admission ∧ l = .urgent ∧ (s.classAt r.cls).emergency = false
      ∨ (r.kind = .confirm ∨ r.kind = .release ∨ r.kind = .query ∨ r.kind = .amend ∨ r.kind = .resize ∨ r.kind = .move)
        ∧ 16383 < (r.halfAt 0).toNat
      ∨ r.kind = .amend ∧ (r.byteAt 3 < 1 ∨ 4 < r.byteAt 3)
      ∨ r.kind = .resize ∧ 4095 < (r.halfAt 3).toNat
      ∨ r.kind = .move ∧ 15 < r.byteAt 3
      ∨ r.kind = .fetch ∧ (r.byteAt 0 < 1 ∨ 8 < r.byteAt 0)
      ∨ r.kind = .cellStatus ∧ 15 < r.byteAt 0) →
    exec (commandOf r) s = .next ((s.handOver l p).answer p r (Reply.mk .badRequest false false false .empty)))

/-- A handle that names no live record of its generation is answered STALE, and one of a cell that another port owns
NOT_OWNER; Confirm, Resize and Move of a QUEUED, HELD or CEDING record are answered WRONG_STATE with its handle and state;
nothing else happens. CLAMPED is set for a Resize whose demand field is 0 (R6, R88, R90, R103, R107). -/
def Obligations.HandlesAndStatesAreChecked : Prop :=
  (∀ (s : State) (l : Lane) (p : PortIx) (r : Request), s.serves r.kind l p r →
    (r.kind = .confirm ∨ r.kind = .release ∨ r.kind = .query ∨ r.kind = .amend ∨ r.kind = .resize ∨ r.kind = .move) →
    ((∀ ses st, ¬ s.named r.handle ses st) → exec (commandOf r) s = .next ((s.handOver l p).answer p r
        (Reply.mk .stale false false (decide (r.kind = .resize ∧ (r.halfAt 3).toNat = 0)) .empty)))
    ∧ ∀ ses st, s.named r.handle ses st → (s.cell ses.key.cell).owner ≠ p →
        exec (commandOf r) s = .next ((s.handOver l p).answer p r
          (Reply.mk .notOwner false false (decide (r.kind = .resize ∧ (r.halfAt 3).toNat = 0)) .empty)))
  ∧ (∀ (s : State) (l : Lane) (p : PortIx) (r : Request) (ses : Session) (st : Stage), s.serves r.kind l p r →
    (r.kind = .confirm ∨ r.kind = .resize ∨ r.kind = .move) → s.resolves p r.handle ses st → st.isAdmitted = false →
    exec (commandOf r) s = .next ((s.handOver l p).answer p r
      (Reply.mk .wrongState false false (decide (r.kind = .resize ∧ (r.halfAt 3).toNat = 0))
        (.handleState r.handle (s.record r.handle.index).state))))

/-! ### Requests that leave the accounts alone -/

/-- Confirm (R90): a SETUP record becomes ACTIVE without a deadline and nothing else changes; an ACTIVE one stays as it is;
in any other state the answer is WRONG_STATE and nothing changes. -/
def Obligations.ConfirmActivatesASetupRecord : Prop :=
  ∀ (s : State) (l : Lane) (p : PortIx) (r : Request) (ses : Session) (stamp : Tick), s.serves .confirm l p r →
    (∀ g, s.resolves p r.handle ses (.setup stamp g) → ∃ w : State,
      exec .confirmRequest s = .next (w.answer p r (Reply.mk .ok false false false (.handleState r.handle .active)))
      ∧ w.record r.handle.index = { s.record r.handle.index with life := .live ses (.active stamp) }
      ∧ RecordsKept s w [r.handle.index] ∧ { w with records := s.records } = s.handOver l p)
    ∧ (s.resolves p r.handle ses (.active stamp) → exec .confirmRequest s
        = .next ((s.handOver l p).answer p r (Reply.mk .ok false false false (.handleState r.handle .active))))
    ∧ ∀ st, s.resolves p r.handle ses st → st.isAdmitted = false → exec .confirmRequest s = .next ((s.handOver l p).answer p r
        (Reply.mk .wrongState false false false (.handleState r.handle (s.record r.handle.index).state)))

/-- Amend (R99 to R102): in every live state it acts on the record's tags word alone, the answer carrying the old word and
the new. SET and CLEAR act on the bits of the mask and report a new word of 0; TEST stores nothing and reports that the
selected part is 0; EXCHANGE replaces the selected bits when they equal the comparand's, and reports the match. -/
def Obligations.AmendsChangeTheTagsAlone : Prop :=
  ∀ (s : State) (l : Lane) (p : PortIx) (r : Request) (ses : Session) (st : Stage), s.serves .amend l p r →
    s.resolves p r.handle ses st → ∃ (w : State) (new : Half) (zero isMatch : Bool),
      exec (commandOf r) s = .next (w.answer p r (Reply.mk .ok zero isMatch false (.amend ses.tags new)))
      ∧ w.record r.handle.index = { s.record r.handle.index with life := .live { ses with tags := new } st }
      ∧ RecordsKept s w [r.handle.index] ∧ { w with records := s.records } = s.handOver l p
      ∧ (r.byteAt 3 = 1 → commandOf r = .amendSet ∧ isMatch = false ∧ zero = decide (new = 0#16)
          ∧ ∀ k, new.getLsbD k = (ses.tags.getLsbD k || (r.halfAt 4).getLsbD k))
      ∧ (r.byteAt 3 = 2 → commandOf r = .amendClear ∧ isMatch = false ∧ zero = decide (new = 0#16)
          ∧ ∀ k, new.getLsbD k = (ses.tags.getLsbD k && !(r.halfAt 4).getLsbD k))
      ∧ (r.byteAt 3 = 3 → commandOf r = .amendTest ∧ isMatch = false ∧ new = ses.tags
          ∧ (zero = true ↔ ∀ k, (r.halfAt 4).getLsbD k = true → ses.tags.getLsbD k = false))
      ∧ (r.byteAt 3 = 4 → commandOf r = .amendExchange ∧ zero = decide (new = 0#16)
          ∧ (isMatch = true ↔ ∀ k, (r.halfAt 4).getLsbD k = true → ses.tags.getLsbD k = (r.halfAt 6).getLsbD k)
          ∧ ∀ k, new.getLsbD k = if isMatch && (r.halfAt 4).getLsbD k then (r.halfAt 8).getLsbD k else ses.tags.getLsbD k)

/-- Lookup (R18): NOT_OWNER before the directory is searched; the handle, state, class, level and demand of the live record
that has the key; STALE for a key no live record has. Query (R19): a resolved handle is answered OK with the record it names.
Neither changes anything. -/
def Obligations.LookupAndQueryReport : Prop :=
  (∀ (s : State) (l : Lane) (p : PortIx) (r : Request), s.serves .lookup l p r →
    ((s.cell r.key.cell).owner ≠ p →
      exec .lookupRequest s = .next ((s.handOver l p).answer p r (Reply.mk .notOwner false false false .empty)))
    ∧ ((s.cell r.key.cell).owner = p → s.directoryExact →
      (∀ i ses st, s.liveAt i = some (ses, st) → ses.key = r.key → exec .lookupRequest s = .next ((s.handOver l p).answer p r
        (Reply.mk .ok false false false (.lookup (s.handleOf i) (s.record i).state ses.cls ses.level ses.demand))))
      ∧ ((∀ i ses st, s.liveAt i = some (ses, st) → ses.key ≠ r.key) →
        exec .lookupRequest s = .next ((s.handOver l p).answer p r (Reply.mk .stale false false false .empty)))))
  ∧ (∀ (s : State) (l : Lane) (p : PortIx) (r : Request) (ses : Session) (st : Stage), s.serves .query l p r →
    s.resolves p r.handle ses st → exec .queryRequest s = .next ((s.handOver l p).answer p r
      (Reply.mk .ok false false false (.query r.handle.index (s.record r.handle.index)))))

/-- The Query body lays the fields of a live record out as the body table of 10.6 says, each group marked present or absent,
a field of an absent group and a victim slot beyond the count reading as 0 (R19). The bits of its flags byte stand in the order
listed (the model's reading, log entry 17). -/
def Obligations.QueryBodyLaysTheFieldsOut : Prop :=
  ∀ (i g : Nat) (ses : Session) (st : Stage) (pending : Option PendingNotice) (f1 f2 : Half) (b : List Byte),
    i ≤ 16383 → g ≤ 255 → ses.level ≤ 15 → ses.grace ≤ 65535 → ses.setupGuard ≤ 65535 → ses.demand ≤ 4095 →
    (∀ h, st.beneficiary? = some h → h.index ≤ 16383 ∧ h.generation ≤ 255) →
    (∀ v n e c, st.held? = some (v, n, e, c) → v.length ≤ 4 ∧ n ≤ 69630 ∧ e ≤ 65535 ∧ c ≤ 69630
      ∧ ∀ h, h ∈ v → h.index ≤ 16383 ∧ h.generation ≤ 255) →
    b = bodyBytes (.query i (Record.mk g (.live ses st) pending)) f1 f2 →
    fieldAt b 0 2 = i ∧ fieldAt b 2 1 = g ∧ fieldAt b 3 1 = (Record.mk g (.live ses st) pending).state.code
    ∧ ((fieldAt b 4 2).testBit 0 = true ∧ (fieldAt b 4 2).testBit 1 = st.stamp?.isSome
      ∧ (fieldAt b 4 2).testBit 2 = st.arrival?.isSome ∧ (fieldAt b 4 2).testBit 3 = st.deadline?.isSome
      ∧ (fieldAt b 4 2).testBit 4 = st.beneficiary?.isSome ∧ (fieldAt b 4 2).testBit 5 = st.held?.isSome
      ∧ (fieldAt b 4 2).testBit 6 = pending.isSome)
    ∧ fieldAt b 6 1 = ses.key.cell.val ∧ fieldAt b 7 4 = ses.key.terminal.toNat ∧ fieldAt b 11 1 = ses.key.bearer.val
    ∧ fieldAt b 12 1 = ses.cls.val ∧ fieldAt b 13 1 = ses.level
    ∧ ((fieldAt b 14 1).testBit 0 = ses.emergency ∧ (fieldAt b 14 1).testBit 1 = ses.vulnerable
      ∧ (fieldAt b 14 1).testBit 2 = ses.handover)
    ∧ fieldAt b 15 2 = ses.grace ∧ fieldAt b 17 2 = ses.setupGuard ∧ fieldAt b 19 2 = ses.demand
    ∧ fieldAt b 21 2 = ses.tags.toNat ∧ fieldAt b 23 2 = ses.requestTag.toNat
    ∧ fieldAt b 25 4 = (st.stamp?.getD 0).toNat
    ∧ fieldAt b 29 4 = (st.arrival?.getD (0, 0)).1.toNat ∧ fieldAt b 33 4 = (st.arrival?.getD (0, 0)).2.toNat
    ∧ fieldAt b 37 4 = (st.deadline?.getD (0, 0)).1.toNat ∧ fieldAt b 41 1 = (st.deadline?.getD (0, 0)).2
    ∧ fieldAt b 42 2 = (st.beneficiary?.getD (Handle.mk 0 0)).index
    ∧ fieldAt b 44 1 = (st.beneficiary?.getD (Handle.mk 0 0)).generation
    ∧ fieldAt b 45 1 = (st.held?.getD ([], 0, 0, 0)).1.length
    ∧ (∀ k, k < 4 → fieldAt b (46 + 3 * k) 2 = ((st.held?.getD ([], 0, 0, 0)).1.getD k (Handle.mk 0 0)).index
        ∧ fieldAt b (48 + 3 * k) 1 = ((st.held?.getD ([], 0, 0, 0)).1.getD k (Handle.mk 0 0)).generation)
    ∧ fieldAt b 58 3 = (st.held?.getD ([], 0, 0, 0)).2.1 ∧ fieldAt b 61 2 = (st.held?.getD ([], 0, 0, 0)).2.2.1
    ∧ fieldAt b 63 3 = (st.held?.getD ([], 0, 0, 0)).2.2.2
    ∧ fieldAt b 66 1 = (match pending with
      | some n => n.kind.code
      | none => 0)
    ∧ fieldAt b 67 1 = (match pending with
      | some n => n.cause.code
      | none => 0)

/-- Cell Status (R38) reports the figures of any cell to any port, the session count being the number of live records whose
key names the cell; Null (R171) is answered OK. Neither changes anything. -/
def Obligations.CellStatusAndNullOnlyReport : Prop :=
  (∀ (s : State) (l : Lane) (p : PortIx) (r : Request) (k : Cell), s.serves .cellStatus l p r → s.storeCanonical = true →
    k = s.cell (Fin.ofNat 16 (r.byteAt 0)) → ∃ sessions : List Nat, sessions.Nodup
      ∧ (∀ i, i ∈ sessions ↔ ∃ ses st, s.liveAt i = some (ses, st) ∧ ses.key.cell.val = r.byteAt 0)
      ∧ exec .cellStatusRequest s = .next ((s.handOver l p).answer p r (Reply.mk .ok false false false
        (.cellStatus k.state k.capacity (min k.floor k.capacity) k.countA k.countC k.countR (k.countA + k.countC + k.countR)
          k.occupancy k.level k.queue.length sessions.length))))
  ∧ ∀ (s : State) (l : Lane) (p : PortIx) (r : Request), s.serves .null l p r →
      exec .nullRequest s = .next ((s.handOver l p).answer p r (Reply.mk .ok false false false .empty))

/-! ### Resize, Move and Release -/

/-- Resize (R103 to R105) of a SETUP or ACTIVE record: the demand it holds is answered OK; an increase is granted when it is
within the record's headroom, otherwise answered NO_ROOM with the old demand; a decrease is always granted, and a queue
service pass follows it. A demand field of 0 counts as 1 and sets CLAMPED. The record's other fields and its rank-list place
are kept. -/
def Obligations.ResizeChangesTheDemand : Prop :=
  ∀ (s h : State) (l : Lane) (p : PortIx) (r : Request) (ses : Session) (st : Stage) (d : Nat) (k : Cell) (z : Bool),
    s.serves .resize l p r → s.resolves p r.handle ses st → st.isAdmitted = true → h = s.handOver l p →
    d = max 1 (r.halfAt 3).toNat → k = s.cell ses.key.cell → z = decide ((r.halfAt 3).toNat = 0) →
    (d = ses.demand → exec .resizeRequest s = .next (h.answer p r (Reply.mk .ok false false z (.demand d))))
    ∧ (ses.demand < d → k.limitOf ses.emergency < k.use + (d - ses.demand) →
      exec .resizeRequest s = .next (h.answer p r (Reply.mk .noRoom false false z (.demand ses.demand))))
    ∧ (ses.demand < d → k.use + (d - ses.demand) ≤ k.limitOf ses.emergency → ∃ w : State,
      exec .resizeRequest s = .next (w.answer p r (Reply.mk .ok false false z (.demand d)))
      ∧ w.record r.handle.index = { s.record r.handle.index with life := .live { ses with demand := d } st }
      ∧ RecordsKept s w [r.handle.index] ∧ StoreListsKept s w
      ∧ Recounted h w ses.key.cell { k with countA := k.countA + (d - ses.demand) })
    ∧ (d < ses.demand → ∃ w : State,
      exec .resizeRequest s = .next ((w.servicePass ses.key.cell).answer p r (Reply.mk .ok false false z (.demand d)))
      ∧ w.record r.handle.index = { s.record r.handle.index with life := .live { ses with demand := d } st }
      ∧ RecordsKept s w [r.handle.index] ∧ StoreListsKept s w
      ∧ Recounted h w ses.key.cell { k with countA := k.countA - (ses.demand - d) })

/-- Move (R107): the first check that applies answers, and nothing changes: NOT_OWNER, the cell state, DUPLICATE with the
handle and state of the record that holds the new key, NO_ROOM. A Move that names the record's own cell, where its state
takes one, is answered DUPLICATE with its own handle and state. -/
def Obligations.MovesAreRefusedInOrder : Prop :=
  ∀ (s : State) (l : Lane) (p : PortIx) (r : Request) (ses : Session) (st : Stage) (k : Cell) (key : Key),
    s.serves .move l p r → s.resolves p r.handle ses st → st.isAdmitted = true → k = s.cell (Fin.ofNat 16 (r.byteAt 3)) →
    key = Key.mk (Fin.ofNat 16 (r.byteAt 3)) ses.key.terminal ses.key.bearer →
    (k.owner ≠ p → exec .moveRequest s = .next ((s.handOver l p).answer p r (Reply.mk .notOwner false false false .empty)))
    ∧ (k.owner = p → k.state = .closed →
      exec .moveRequest s = .next ((s.handOver l p).answer p r (Reply.mk .cellClosed false false false .empty)))
    ∧ (k.owner = p → k.state = .draining →
      exec .moveRequest s = .next ((s.handOver l p).answer p r (Reply.mk .cellDraining false false false .empty)))
    ∧ (k.owner = p → k.state = .barred → ses.emergency = false →
      exec .moveRequest s = .next ((s.handOver l p).answer p r (Reply.mk .cellBarred false false false .empty)))
    ∧ (k.owner = p → k.state = .opened ∨ k.state = .barred ∧ ses.emergency = true →
      (∀ o, s.findKey key = some o → exec .moveRequest s = .next ((s.handOver l p).answer p r
        (Reply.mk .duplicate false false false (.handleState o (s.record o.index).state))))
      ∧ (s.findKey key = none → k.limitOf ses.emergency - k.use < ses.demand →
        exec .moveRequest s = .next ((s.handOver l p).answer p r (Reply.mk .noRoom false false false .empty)))
      ∧ (key = ses.key → s.directoryExact → exec .moveRequest s = .next ((s.handOver l p).answer p r
        (Reply.mk .duplicate false false false (.handleState r.handle (s.record r.handle.index).state)))))

/-- A Move that passes its checks (R109): the source gives up the demand and the record leaves its rank list; the key takes
the target cell and the directory follows; the level is formed afresh from the class level in use (R33, R34), a closed class
counting as 1 and an open emergency class as 15, with the boost, up to 14, and is 15 for an emergency record; the target
counts the demand and takes a vulnerable record on its rank list; the admit stamp becomes now, a SETUP deadline staying; each
cell is recomputed, and a queue service pass follows in the source. That the source's LEVEL notice comes first is the model's
reading (log entry 18). -/
def Obligations.MoveCarriesTheSession : Prop :=
  ∀ (s h : State) (l : Lane) (p : PortIx) (r : Request) (ses moved : Session) (st : Stage) (source target : CellIx) (i : Nat),
    s.serves .move l p r → s.resolves p r.handle ses st → st.isAdmitted = true → h = s.handOver l p →
    source = ses.key.cell → target = Fin.ofNat 16 (r.byteAt 3) → target ≠ source → i = r.handle.index →
    (s.cell target).owner = p → (s.cell target).state = .opened ∨ (s.cell target).state = .barred ∧ ses.emergency = true →
    moved = { ses with
      key := Key.mk target ses.key.terminal ses.key.bearer
      level := if ses.emergency = true then 15 else min 14 ((if (s.classAt ses.cls).level = 0 then 1
        else if (s.classAt ses.cls).emergency = true then 15 else (s.classAt ses.cls).level) + (s.classAt ses.cls).boost) } →
    s.findKey moved.key = none → s.fits target ses.emergency ses.demand → ∃ w : State,
      exec .moveRequest s = .next ((w.servicePass source).answer p r
        (Reply.mk .ok false false false (.move r.handle target moved.level)))
      ∧ w.record i = { s.record i with life := .live moved (match st with
          | .setup _ deadline => .setup s.tick deadline
          | _ => .active s.tick) }
      ∧ RecordsKept s w [i] ∧ w.freeList = s.freeList
      ∧ w.findKey ses.key = none ∧ w.findKey moved.key = some r.handle
      ∧ (∀ k, k ≠ ses.key → k ≠ moved.key → w.findKey k = s.findKey k)
      ∧ CellIs w source ({ s.cell source with
          countA := (s.cell source).countA - ses.demand
          rankList := (s.cell source).rankList.filter fun j => decide (j ≠ i) } : Cell).recomputed
      ∧ CellIs w target (s.counted (s.cell target) i moved).recomputed ∧ CellsKept s w [source, target]
      ∧ Delivers h w p (levelNotices s w source ++ levelNotices s w target) ∧ PortsKept h w [p] ∧ Still h w

/-- Release (R92 to R96): the change of the record's state, then its retirement with no notice about it, then the queue
service pass: after SETUP and ACTIVE, after HELD and CEDING when the change lowered U, after QUEUED when it was the head. The
answer carries the handle and the state the record was in. What the change is, GivingUpFollowsTheState says. -/
def Obligations.ReleaseGivesUpAndRetires : Prop :=
  ∀ (s x : State) (l : Lane) (p : PortIx) (r : Request) (ses : Session) (st : Stage) (i : Nat) (c : CellIx),
    s.serves .release l p r → s.resolves p r.handle ses st → i = r.handle.index → c = ses.key.cell →
    x = (s.handOver l p).giveUp i ses st → ∃ w : State, RetiredFrom x w i ses
      ∧ exec .releaseRequest s = .next ((w.serviceWhen (match st with
          | .queued _ _ _ => decide ((s.cell c).queue.head? = some i)
          | .setup _ _ => true
          | .active _ => true
          | _ => decide ((x.cell c).use < (s.cell c).use)) c).answer p r
        (Reply.mk .ok false false false (.handleState r.handle (s.record i).state)))

/-- What a record gives up before its retirement (R93 to R96, R64, R128): a QUEUED record nothing; a SETUP or ACTIVE record
its demand in A, with a recompute; a HELD record its headroom reserved and what it collected in R, with a recompute when that
is not 0 (the model's reading, log entry 19), and its remaining victims lose their beneficiary; a CEDING record makes its
victim exit (VictimExitPassesUnits). -/
def Obligations.GivingUpFollowsTheState : Prop :=
  ∀ (s : State) (i : Nat) (ses : Session) (c : CellIx), c = ses.key.cell →
    (∀ a v d, s.giveUp i ses (.queued a v d) = s)
    ∧ (∀ stamp d, StoreKept s (s.giveUp i ses (.setup stamp d))
      ∧ Recounted s (s.giveUp i ses (.setup stamp d)) c { s.cell c with countA := (s.cell c).countA - ses.demand })
    ∧ (∀ stamp, StoreKept s (s.giveUp i ses (.active stamp))
      ∧ Recounted s (s.giveUp i ses (.active stamp)) c { s.cell c with countA := (s.cell c).countA - ses.demand })
    ∧ (∀ victims need reserved collected, let w := s.giveUp i ses (.held victims need reserved collected)
      Unbound s w victims [] ∧ StoreListsKept s w
      ∧ (reserved + collected = 0 → w.cells = s.cells ∧ w.ports = s.ports ∧ Still s w)
      ∧ (reserved + collected ≠ 0 →
        Recounted s w c { s.cell c with countR := (s.cell c).countR - (reserved + collected) }))
    ∧ ∀ stamp b d, s.giveUp i ses (.ceding stamp b d) = s.victimExit i ses b

/-! ### Admission and preemption -/

/-- The victim exit (R58, R60, R61, R62) of a CEDING record of demand v, with its recompute: C −= v. Owed to a HELD
beneficiary, the lesser of v and what it still needs goes to its collected and to R, and the victim leaves its list. When that
completes the need the beneficiary is promoted in the same change: R gives up its headroom reserved and need, A takes its
demand, it is in SETUP with its stamp now and its guard's deadline, on the rank list when vulnerable; its remaining victims
lose their beneficiary; GRANT/FROM_HOLD is raised ahead of the LEVEL notice. -/
def Obligations.VictimExitPassesUnits : Prop :=
  ∀ (s : State) (i v : Nat) (ses : Session) (stamp deadline : Tick) (c : CellIx) (k : Cell),
    s.liveAt i = some (ses, .ceding stamp none deadline) ∨ (∃ b, s.liveAt i = some (ses, .ceding stamp (some b) deadline)) →
    c = ses.key.cell → k = s.cell c → v = ses.demand →
    (∃ w : State, w = s.victimExit i ses none ∧ StoreKept s w ∧ Recounted s w c { k with countC := k.countC - v })
    ∧ ∀ b h victims need reserved collected take left, s.named b h (.held victims need reserved collected) →
      h.key.cell = c → take = min v (need - collected) → left = victims.filter (fun o => decide (o ≠ s.handleOf i)) →
      ∃ w : State, w = s.victimExit i ses (some b) ∧ StoreListsKept s w
        ∧ (collected + take ≠ need → RecordsKept s w [b.index]
          ∧ w.record b.index = { s.record b.index with life := .live h (.held left need reserved (collected + take)) }
          ∧ Recounted s w c { k with countC := k.countC - v, countR := k.countR + take })
        ∧ (collected + take = need → Unbound s w left [b.index]
          ∧ w.record b.index = Record.mk b.generation (.live h (.setup s.tick (guardAt s.tick h.setupGuard)))
              (s.pendingAfter k.owner 0 b.index (s.noticeOf b.index h .grant .fromHold))
          ∧ CellIs w c (s.counted { k with
              countC := k.countC - v, countR := k.countR + take - (reserved + need) } b.index h).recomputed
          ∧ CellsKept s w [c] ∧ PortsKept s w [k.owner] ∧ Still s w
          ∧ Delivers s w k.owner (s.ringNotice b.index h .grant .fromHold :: levelNotices s w c))

/-- The checks of an Admit after BAD_REQUEST (R40, R9, R17, R26, R42, R49, R134): the first that applies answers, CLAMPED is
set when the demand field was 0, and nothing changes. -/
def Obligations.AdmitsAreRefusedInOrder : Prop :=
  ∀ (s : State) (l : Lane) (p : PortIx) (r : Request) (k : Cell) (cls : ServiceClass) (d : Nat) (refused : Status → ResponseBody → Prop),
    s.serves .admission l p r → (l = .urgent → cls.emergency = true) → k = s.cell (Fin.ofNat 16 (r.byteAt 0)) →
    cls = s.classAt (Fin.ofNat 16 (r.byteAt 6)) → d = max 1 (r.halfAt 7).toNat →
    (refused = fun st body => exec .admitRequest s = .next ((s.handOver l p).answer p r
      (Reply.mk st false false (decide ((r.halfAt 7).toNat = 0)) body))) →
    (k.owner ≠ p → refused .notOwner .empty)
    ∧ (k.owner = p → ∀ o, s.findKey r.key = some o → refused .duplicate (.handleState o (s.record o.index).state))
    ∧ (k.owner = p → s.findKey r.key = none →
      (k.state = .closed → refused .cellClosed .empty) ∧ (k.state = .draining → refused .cellDraining .empty)
      ∧ (k.state = .barred → cls.emergency = false → refused .cellBarred .empty)
      ∧ (k.state = .opened ∨ k.state = .barred ∧ cls.emergency = true →
        (cls.level = 0 → refused .classClosed .empty)
        ∧ (1 ≤ cls.level → k.limitOf cls.emergency < d → refused .tooLarge .empty)
        ∧ (1 ≤ cls.level → d ≤ k.limitOf cls.emergency →
          ((if cls.emergency = true then 4 else cls.refuseLevel) ≤ k.level → refused .congested .empty)
          ∧ (k.level < (if cls.emergency = true then 4 else cls.refuseLevel) →
            s.freeList.length < (if cls.emergency = true then 1 else 65) → refused .tableFull .empty))))

/-- Plain admission (R3, R8, R10, R34, R44, R45, R48): a newcomer that passes the checks, competes and fits its headroom takes
the free list's head for SETUP, with its session as R3 fills it, its stamp now and its guard's deadline; its demand is in A,
and it is on the rank list when vulnerable. The answer is OK with its handle. -/
def Obligations.AdmitAdmitsPlainly : Prop :=
  ∀ (s h : State) (l : Lane) (p : PortIx) (r : Request) (ses : Session) (c : CellIx), s.serves .admission l p r →
    (l = .urgent → (s.classAt r.cls).emergency = true) → h = s.handOver l p → ses = s.sessionOf r → c = r.key.cell →
    s.admitPasses p r → s.outranksHead c ses → s.fits c ses.emergency ses.demand → ∃ (w : State) (i : Nat),
      exec .admitRequest s = .next (w.answer p r
        (Reply.mk .ok false false (decide ((r.halfAt 7).toNat = 0)) (.handle (s.handleOf i))))
      ∧ Taken s w i ses (.setup s.tick (guardAt s.tick ses.setupGuard)) ∧ RecordsKept s w [i]
      ∧ CellIs w c (s.counted (s.cell c) i ses).recomputed ∧ CellsKept s w [c]
      ∧ Delivers h w p (levelNotices s w c) ∧ PortsKept h w [p] ∧ Quiet h w ∧ ReserveRaised s w

/-- The preemption decision of a newcomer (R46, R50 to R53): one that passes the checks, competes, does not fit and has a walk
that covers its shortfall takes the free list's head for HELD, bound to its victims, with the headroom found and the shortfall
as its need. The answer is HELD with its handle. -/
def Obligations.AdmitPreemptsForANewcomer : Prop :=
  ∀ (s h : State) (l : Lane) (p : PortIx) (r : Request) (ses : Session) (c : CellIx) (victims : List Nat),
    s.serves .admission l p r → (l = .urgent → (s.classAt r.cls).emergency = true) → h = s.handOver l p →
    ses = s.sessionOf r → c = r.key.cell → s.admitPasses p r → s.outranksHead c ses → s.takesVictims c ses victims →
    s.storeExact → s.accountsExact → ∃ (w : State) (i : Nat),
      exec .admitRequest s = .next (w.answer p r
        (Reply.mk .held false false (decide ((r.halfAt 7).toNat = 0)) (.handle (s.handleOf i))))
      ∧ Taken s w i ses (.held (victims.map s.handleOf)
          ((s.cell c).use + ses.demand - (s.cell c).limitOf ses.emergency) ((s.cell c).limitOf ses.emergency - (s.cell c).use) 0)
      ∧ RecordsKept s w (i :: victims) ∧ Preempted h w c ses (s.handleOf i) victims (s.cell c)
      ∧ CellsKept s w [c] ∧ PortsKept h w [p] ∧ Quiet h w ∧ ReserveRaised s w

/-- The queue route of a newcomer that takes no direct route (R45, R47, R54, R74 to R76): NO_ROOM when its class may not
queue, or it carries the no-queue or the handover flag; QUEUE_FULL when the queue is full and it is no emergency record or the
queue holds emergency records alone; otherwise, while there is a place, it is enqueued and answered QUEUED with its handle. -/
def Obligations.AdmitQueuesOrRefuses : Prop :=
  ∀ (s h : State) (l : Lane) (p : PortIx) (r : Request) (ses : Session) (c : CellIx) (k : ServiceClass) (z : Bool),
    s.serves .admission l p r → (l = .urgent → k.emergency = true) → h = s.handOver l p → ses = s.sessionOf r →
    c = r.key.cell → k = s.classAt r.cls → z = decide ((r.halfAt 7).toNat = 0) → s.admitPasses p r → ¬ s.goesDirect c ses →
    (k.mayQueue = false ∧ k.emergency = false ∨ r.flags.getLsbD 1 = true ∨ r.flags.getLsbD 2 = true →
      exec .admitRequest s = .next (h.answer p r (Reply.mk .noRoom false false z .empty)))
    ∧ (k.mayQueue = true ∨ k.emergency = true → r.flags.getLsbD 1 = false → r.flags.getLsbD 2 = false →
      (s.full c → ses.emergency = false ∨ (∀ i, i ∈ (s.cell c).queue → s.emergencyAt i = true) →
        exec .admitRequest s = .next (h.answer p r (Reply.mk .queueFull false false z .empty)))
      ∧ (¬ s.full c → ∃ (w : State) (i : Nat), Enqueued h w i ses
        ∧ exec .admitRequest s = .next (w.answer p r (Reply.mk .queued false false z (.handle (s.handleOf i))))))

/-- Displacement by an emergency newcomer (R75): the last non-emergency record of the full queue is retired with
EXPIRED/DISPLACED before the newcomer's record is taken and enqueued; a queue service pass follows when it was the head. -/
def Obligations.AnEmergencyNewcomerDisplaces : Prop :=
  ∀ (s h x : State) (l : Lane) (p : PortIx) (r : Request) (ses gone : Session) (st : Stage) (c : CellIx) (j : Nat)
    (ahead behind : List Nat), s.serves .admission l p r → h = s.handOver l p → ses = s.sessionOf r → c = r.key.cell →
    ses.emergency = true → s.admitPasses p r → ¬ s.goesDirect c ses → r.flags.getLsbD 1 = false → r.flags.getLsbD 2 = false →
    s.full c → (s.cell c).queue = ahead ++ j :: behind → (∀ i, i ∈ behind → s.emergencyAt i = true) →
    s.liveAt j = some (gone, st) → gone.emergency = false → x = h.raiseSession j .expired .displaced → ∃ (y w : State) (i : Nat),
      RetiredFrom x y j gone ∧ Enqueued y w i ses ∧ i = s.freeList.headD 0
      ∧ exec .admitRequest s = .next ((w.serviceWhen (decide ((s.cell c).queue.head? = some j)) c).answer p r
        (Reply.mk .queued false false (decide ((r.halfAt 7).toNat = 0)) (.handle (s.handleOf i))))

/-- The victim walk (R51, R52, R54): from the head of the rank list it takes records of lower level than the requester, up to
four, one after another, until their demands reach the shortfall. What it takes is a run from the head, and it ends there for
one of the four reasons of R51. -/
def Obligations.TheWalkTakesAPrefixOfTheRankList : Prop :=
  ∀ (s : State) (level shortfall : Nat) (list taken : List Nat) (v : Nat), 1 ≤ shortfall →
    s.victimWalk level shortfall 4 0 list = (taken, v) → ∃ rest, list = taken ++ rest ∧ v = (taken.map s.demandAt).sum
      ∧ taken.length ≤ 4 ∧ (∀ i, i ∈ taken → s.levelAt i < level)
      ∧ (∀ n, n < taken.length → ((taken.take n).map s.demandAt).sum < shortfall)
      ∧ (shortfall ≤ v ∨ taken.length = 4 ∨ rest = [] ∨ ∃ i more, rest = i :: more ∧ level ≤ s.levelAt i)

/-- Places in a queue and on a rank list (R36, R71, R74): the new record stands in the queue after every emergency record of
the run it passes and, being ordinary, after every ordinary record of equal or earlier virtual arrival, ahead of the record
that follows it; on the rank list after the records of lower level and ahead of the first of its own level or above. -/
def Obligations.NewRecordsTakeTheirPlaces : Prop :=
  (∀ (e : Nat → Bool) (va : Nat → Tick) (i : Nat) (q : List Nat), ∃ ahead behind, q = ahead ++ behind
    ∧ queueInsert e va i q = ahead ++ i :: behind
    ∧ (∀ j, j ∈ ahead → e j = true ∨ e i = false ∧ later (va j) (va i) = false)
    ∧ ∀ j more, behind = j :: more → e j = false ∧ (e i = true ∨ later (va j) (va i) = true))
  ∧ ∀ (levelOf : Nat → Nat) (i level : Nat) (q : List Nat), ∃ ahead behind, q = ahead ++ behind
    ∧ rankInsert levelOf i level q = ahead ++ i :: behind ∧ (∀ j, j ∈ ahead → levelOf j < level)
    ∧ ∀ j more, behind = j :: more → level ≤ levelOf j

/-! ### Queue service -/

/-- A queue service pass (R81 to R85): none in a cell that is CLOSED or DRAINING or whose owner port is DRAINING; it stops at
a head it cannot admit: an ordinary one in a BARRED cell, or one that neither fits nor, where it may preempt, has a walk that
covers its shortfall (an ordinary head of a closed emergency class may: the model's choice, log entry 21). A head that fits
leaves the queue for SETUP with GRANT/FROM_QUEUE, its demand in A, a recompute after it; then the pass goes on from the new
head. -/
def Obligations.PassesAdmitHeadsUntilOneFails : Prop :=
  (∀ (s : State) (c : CellIx),
    ((s.cell c).state = .closed ∨ (s.cell c).state = .draining ∨ (s.port (s.cell c).owner).state = .draining
      ∨ (s.cell c).queue = [] → s.servicePass c = s)
    ∧ ∀ i rest ses st, (s.cell c).queue = i :: rest → s.liveAt i = some (ses, st) →
      (s.cell c).state = .barred ∧ ses.emergency = false
        ∨ ¬ s.fits c ses.emergency ses.demand ∧ (∀ victims, ¬ s.takesVictims c ses victims) →
      s.servicePass c = s)
  ∧ (∀ (s : State) (c : CellIx) (i : Nat) (rest : List Nat) (ses : Session) (st : Stage) (k : Cell),
    k = s.cell c → (k.state = .opened ∨ k.state = .barred ∧ ses.emergency = true) →
    (s.port k.owner).state ≠ .draining → k.queue = i :: rest → i ∉ rest → s.liveAt i = some (ses, st) → ses.key.cell = c →
    s.fits c ses.emergency ses.demand → ∃ w : State, s.servicePass c = w.servicePass c
      ∧ w.record i = Record.mk (s.record i).generation (.live ses (.setup s.tick (guardAt s.tick ses.setupGuard)))
          (s.pendingAfter k.owner 0 i (s.noticeOf i ses .grant .fromQueue))
      ∧ RecordsKept s w [i] ∧ StoreListsKept s w
      ∧ CellIs w c (s.counted { k with queue := rest, enqueueOrder := k.enqueueOrder.filter fun j => decide (j ≠ i) } i
          ses).recomputed
      ∧ CellsKept s w [c] ∧ PortsKept s w [k.owner] ∧ Still s w
      ∧ Delivers s w k.owner (s.ringNotice i ses .grant .fromQueue :: levelNotices s w c))

/-- A queue service pass places in HELD a head whose preemption decision covers its shortfall (R83): it leaves the queue with
its victims bound to it and no GRANT; then the pass goes on from the new head. That an ordinary head of a closed emergency
class may preempt is the model's choice (log entry 21). -/
def Obligations.PassesHoldAHeadThatPreempts : Prop :=
  ∀ (s : State) (c : CellIx) (i : Nat) (rest victims : List Nat) (ses : Session) (st : Stage) (k : Cell), k = s.cell c →
    (k.state = .opened ∨ k.state = .barred ∧ ses.emergency = true) → (s.port k.owner).state ≠ .draining →
    k.queue = i :: rest → s.liveAt i = some (ses, st) → s.takesVictims c ses victims → s.storeExact → s.accountsExact →
    ∃ w : State, s.servicePass c = w.servicePass c
      ∧ w.record i = { s.record i with life := .live ses (.held (victims.map s.handleOf)
          (k.use + ses.demand - k.limitOf ses.emergency) (k.limitOf ses.emergency - k.use) 0) }
      ∧ RecordsKept s w (i :: victims) ∧ StoreListsKept s w
      ∧ Preempted s w c ses (s.handleOf i) victims
          { k with queue := rest, enqueueOrder := k.enqueueOrder.filter fun j => decide (j ≠ i) }
      ∧ CellsKept s w [c] ∧ PortsKept s w [k.owner] ∧ Still s w

/-! ### Levels -/

/-- The recompute of a cell's entry (R127, R129, R130, R131, R25): the occupancy is U × 1000 / K rounded down, 1000 when U has
reached K or K is 0. A CLOSED cell's level is held. Elsewhere the level becomes the largest one above the present whose
threshold in use the occupancy has reached; when there is none, it falls while the occupancy is below threshold less h. Both
bounds of R130 then hold, and nothing else in the entry changes. -/
def Obligations.RecomputeFollowsOccupancyAndHysteresis : Prop :=
  ∀ (k n : Cell) (o : Nat) (t : Nat → Nat), k.level ≤ 3 → n = k.recomputed →
    o = (if k.capacity ≤ k.countA + k.countC + k.countR then 1000
      else (k.countA + k.countC + k.countR) * 1000 / k.capacity) →
    t = (fun j => if j ≤ 1 then k.t1 else if j = 2 then max k.t2 k.t1 else max k.t3 (max k.t2 k.t1)) →
    n.occupancy = o ∧ { n with occupancy := k.occupancy, level := k.level } = k
    ∧ (k.state = .closed → n.level = k.level)
    ∧ (k.state ≠ .closed → n.level ≤ 3
      ∧ (k.level < n.level → t n.level ≤ o)
      ∧ ((∃ j, k.level < j ∧ j ≤ 3 ∧ t j ≤ o) → k.level < n.level)
      ∧ (∀ j, n.level < j → j ≤ k.level → o < t j - k.hysteresis)
      ∧ (n.level < 3 → o < t (n.level + 1)) ∧ (0 < n.level → t n.level - k.hysteresis ≤ o))

/-! ### Notices and attention -/

/-- The placement of a notice about a record and of a LEVEL notice (R4, R152, R154): discarded at a DRAINING port; at the
ring's tail, with its effect on the attention line, while the backlog is empty and the ring has room; otherwise in the
backlog, as a new entry at its tail, or in the place of the entry the record or cell already has. -/
def Obligations.NoticesArePlacedOrCoalesced : Prop :=
  (∀ (s w : State) (i : Nat) (ses : Session) (st : Stage) (kind : SessionNotice) (cause : Cause) (p : PortIx) (q : Port),
    s.liveAt i = some (ses, st) → p = (s.cell ses.key.cell).owner → q = s.port p → w = s.raiseSession i kind cause →
    (q.state = .draining → w = s)
    ∧ (q.state ≠ .draining → q.backlog = [] → q.ring.length < q.ringSize → PortsKept s w [p] ∧ { w with ports := s.ports } = s
      ∧ w.port p = ({ q with ring := q.ring ++ [Notice.session kind cause (s.handleOf i) ses.key.cell ses.requestTag] } : Port).followRing
          s.tick q.ring.length)
    ∧ (q.state ≠ .draining → q.backlog ≠ [] ∨ q.ringSize ≤ q.ring.length → PortsKept s w [p] ∧ RecordsKept s w [i]
      ∧ { w with ports := s.ports, records := s.records } = s
      ∧ w.record i = { s.record i with pending := some (PendingNotice.mk kind cause (s.record i).generation ses.key.cell
          ses.requestTag) }
      ∧ w.port p = { q with
          backlog := if (s.record i).pending = none then q.backlog ++ [.record i] else q.backlog }))
  ∧ ∀ (s w : State) (c : CellIx) (p : PortIx) (q : Port), p = (s.cell c).owner → q = s.port p → w = s.raiseLevel c →
    (q.state = .draining → w = s)
    ∧ (q.state ≠ .draining → q.backlog = [] → q.ring.length < q.ringSize → PortsKept s w [p] ∧ { w with ports := s.ports } = s
      ∧ w.port p = ({ q with ring := q.ring ++ [Notice.level c (s.cell c).level] } : Port).followRing s.tick q.ring.length)
    ∧ (q.state ≠ .draining → q.backlog ≠ [] ∨ q.ringSize ≤ q.ring.length → PortsKept s w [p] ∧ CellsKept s w [c]
      ∧ { w with ports := s.ports, cells := s.cells } = s
      ∧ w.cell c = { s.cell c with pendingLevel := true }
      ∧ w.port p = { q with backlog := if (s.cell c).pendingLevel = true then q.backlog else q.backlog ++ [.cell c] })

/-- The attention line after the ring count of a port changed (R160, R161): deasserted while enable is clear; in LEVEL_MODE
asserted while the ring is not empty; in PULSE_MODE a pulse of the stored width starts when the count rises from 0 and none is
running. PULSE_END deasserts the line when the tick reaches the start plus the width. -/
def Obligations.TheAttentionLineFollowsTheRing : Prop :=
  (∀ (q n : Port) (now : Tick) (before : Nat), n = q.followRing now before →
    { n with attnLine := q.attnLine, pulseStop := q.pulseStop } = q
    ∧ (q.attnEnable = false → n.attnLine = false ∧ n.pulseStop = q.pulseStop)
    ∧ (q.attnEnable = true → q.attnPulse = false → n.attnLine = decide (q.ring ≠ []) ∧ n.pulseStop = q.pulseStop)
    ∧ (q.attnEnable = true → q.attnPulse = true →
      (before = 0 → q.ring ≠ [] → q.pulseStop = none →
        n.attnLine = true ∧ n.pulseStop = some (now + BitVec.ofNat 32 q.pulseWidth))
      ∧ (before ≠ 0 ∨ q.ring = [] ∨ q.pulseStop ≠ none → n = q)))
  ∧ ∀ (s : State) (p : PortIx), (s.port p).pulseStop = some s.tick → ∃ t, exec (.pulseEnd p) s = .next t
    ∧ t.port p = { s.port p with attnLine := false, pulseStop := none } ∧ PortsKept s t [p] ∧ { t with ports := s.ports } = s

/-- Fetch (R156, R158): the lesser of the count and the ring count of notices leave the ring's head for the answer, then as
many backlog heads as there is room for move to its tail, each record's with its pending content, each cell's with the cell's
present level; the answer carries the ring count and the backlog flag after that. -/
def Obligations.FetchReturnsTheHeadOfTheRing : Prop :=
  ∀ (s h : State) (l : Lane) (p : PortIx) (r : Request) (q : Port) (j m : Nat), s.serves .fetch l p r → h = s.handOver l p →
    q = h.port p → q.ringBounded → s.backlogExact → j = min (r.byteAt 0) q.ring.length → m = min j q.backlog.length →
    ∃ (w : State) (moved : List Notice), exec .fetchRequest s = .next (w.answer p r (Reply.mk .ok false false false
        (.fetch (q.ring.take j) (q.ring.length - j + m) (decide (m < q.backlog.length)))))
      ∧ moved.map some = (q.backlog.take m).map (fun e => match e with
          | .record i => (s.record i).pending.map fun n =>
              Notice.session n.kind n.cause (Handle.mk i n.generation) n.cell n.requestTag
          | .cell c => some (Notice.level c (s.cell c).level))
      ∧ w.port p = ({ q with ring := q.ring.drop j ++ moved, backlog := q.backlog.drop m } : Port).followRing s.tick q.ring.length
      ∧ BacklogLeft s w (q.backlog.take m) ∧ PortsKept h w [p] ∧ w.background = h.background ∧ EventsKept s w

/-- Entry to DRAINING (R124, R146, R147, R172): by Withdraw, answered OK ahead of the answers of the entry, in either table
state; by supervision expiry of an UP port at the tick equal to its timestamp plus a nonzero S, which raises PORT_DOWN. An idle
engine looks for a job at the entry (R140; the choice is a field of the model, log entry 16). -/
def Obligations.PortsEnterDraining : Prop :=
  (∀ (s : State) (l : Lane) (p : PortIx) (r : Request), s.arbiterChoice = some (l, p, r) → r.kind = .withdraw →
    s.backlogExact → ∃ t, exec .withdrawRequest s = .next t
      ∧ EntersDraining ((s.handOver l p).answer p r (Reply.mk .ok false false false .empty)) t p)
  ∧ ∀ (s : State) (p : PortIx), (s.port p).state = .up → s.supervision ≠ 0 →
    s.tick = (s.port p).timestamp + BitVec.ofNat 32 s.supervision → s.supervision ≤ 5000 → s.backlogExact → ∃ x,
      exec (.supervisionExpiry p) s = .next (x.raiseEvent (1#10 <<< p.val)) ∧ EntersDraining s x p

/-! ### Deadlines -/

/-- The expiries (R59, R117, R119, R121), taken when the tick has reached the deadline. A SETUP record gives back its demand in
A, with the recompute; EXPIRED/SETUP_TIMEOUT is raised; it is retired; a queue service pass follows. For a QUEUED record
EXPIRED/WAIT_TIMEOUT is raised and it is retired; a pass follows when it was the head. For a CEDING record FORCED_OUT/
GRACE_EXPIRED is raised, the victim exit is made with any promotion in it, the record is retired, and a pass follows when the
use fell. -/
def Obligations.DeadlinesExpireAtTheirTick : Prop :=
  ((∀ (s : State) (i : Nat) (ses : Session) (stamp : Tick) (c : CellIx),
    s.liveAt i = some (ses, .setup stamp (some s.tick)) → c = ses.key.cell → ∃ (x w : State),
      StoreKept s x ∧ Recounted s x c { s.cell c with countA := (s.cell c).countA - ses.demand }
      ∧ RetiredFrom (x.raiseSession i .expired .setupTimeout) w i ses
      ∧ exec (.setupGuardExpiry i) s = .next (w.servicePass c))
  ∧ ∀ (s : State) (i : Nat) (ses : Session) (arrival va : Tick) (c : CellIx),
    s.liveAt i = some (ses, .queued arrival va s.tick) → c = ses.key.cell → ∃ w : State,
      RetiredFrom (s.raiseSession i .expired .waitTimeout) w i ses
      ∧ exec (.waitExpiry i) s = .next (if (s.cell c).queue.head? = some i then w.servicePass c else w))
  ∧ (∀ (s x : State) (i : Nat) (ses : Session) (stamp : Tick) (b : Option Handle) (c : CellIx),
    s.liveAt i = some (ses, .ceding stamp b s.tick) → c = ses.key.cell →
    x = (s.raiseSession i .forcedOut .graceExpired).victimExit i ses b → ∃ w : State, RetiredFrom x w i ses
      ∧ exec (.graceExpiry i) s = .next (if (x.cell c).use < (s.cell c).use then w.servicePass c else w))

/-! ### Draining -/

/-- The record a drain takes next in a cell (R142), where the cell's accounts are exact: the tail of the queue; the queue
empty, the HELD record of lowest index; then the CEDING one of lowest index; then among SETUP and ACTIVE the one of lowest
level, within it of smallest age, within that of highest index; none exactly when no live record is left. -/
def Obligations.DrainsFollowTheOrder : Prop :=
  ∀ (s : State) (c : CellIx), s.cellExact c → s.storeCanonical = true →
    (∀ i q, (s.cell c).queue = q ++ [i] → s.nextToDrain c = some i)
    ∧ ((s.cell c).queue = [] → ∀ i, s.nextToDrain c = some i → ∃ ses st, s.liveAt i = some (ses, st) ∧ ses.key.cell = c
      ∧ ∀ j o ot, s.liveAt j = some (o, ot) → o.key.cell = c → j ≠ i →
        (st.isHeld = true → ot.isHeld = true → i < j)
        ∧ (st.isHeld = false → ot.isHeld = false)
        ∧ (st.isCeding = true → ot.isCeding = true → i < j)
        ∧ (st.isAdmitted = true → ot.isAdmitted = true ∧ (ses.level < o.level ∨ ses.level = o.level
            ∧ ((s.tick - st.stamp).toNat < (s.tick - ot.stamp).toNat
              ∨ (s.tick - st.stamp).toNat = (s.tick - ot.stamp).toNat ∧ j < i))))
    ∧ (s.nextToDrain c = none ↔ ∀ i ses st, s.liveAt i = some (ses, st) → ses.key.cell ≠ c)

/-- Completion (R28, R131, R144, R148). A cell drain goes on while its cell holds a live record; otherwise the cell is CLOSED
at level 0, with a LEVEL notice when that is a change, the job ends and DRAIN_DONE is raised. A port drain goes on while a
cell its port owns holds a live record; otherwise the port is DOWN, the job ends and DRAIN_DONE is raised. The engine, idle
then, looks for the next job (R140; its choice is a field of the model, log entry 16). A step that finds nothing to retire
completes. -/
def Obligations.DrainsCompleteWhenNothingIsLeft : Prop :=
  (∀ (s : State) (c : CellIx), s.storeCanonical = true →
    ((∃ i ses st, s.liveAt i = some (ses, st) ∧ ses.key.cell = c) → s.settleCellDrain c = s)
    ∧ ((∀ i ses st, s.liveAt i = some (ses, st) → ses.key.cell ≠ c) → ∃ w v : State,
      CellIs w c { s.cell c with state := .closed, level := 0 } ∧ CellsKept s w [c] ∧ StoreKept s w
      ∧ Delivers s w (s.cell c).owner (levelNotices s w c) ∧ PortsKept s w [(s.cell c).owner] ∧ EventsKept s w
      ∧ w.background = s.background ∧ v.job = none ∧ Chooses s v ∧ { v with job := w.job, chosen := w.chosen } = w
      ∧ s.settleCellDrain c = v.raiseEvent 256#10
      ∧ (s.job = some (.cellDrain c) → s.nextToDrain c = none → exec .cellDrainStep s = .next (v.raiseEvent 256#10))))
  ∧ ∀ (s : State) (p : PortIx), s.storeCanonical = true →
    ((∃ i ses st, s.liveAt i = some (ses, st) ∧ (s.cell ses.key.cell).owner = p) → s.settlePortDrain p = s)
    ∧ ((∀ i ses st, s.liveAt i = some (ses, st) → (s.cell ses.key.cell).owner ≠ p) → ∃ v : State,
      v.port p = { s.port p with state := .down } ∧ PortsKept s v [p] ∧ v.job = none ∧ Chooses s v
      ∧ { v with ports := s.ports, job := s.job, chosen := s.chosen } = s
      ∧ s.settlePortDrain p = v.raiseEvent 256#10
      ∧ (s.job = some (.portDrain p) → s.nextOfPort p = none → exec .portDrainStep s = .next (v.raiseEvent 256#10)))

/-- An idle Drain Engine starts the drain it has chosen, and with no choice made the pending port drain of lowest number,
otherwise the pending cell drain of lowest number; the flag is cleared, and a job that finds nothing to retire completes at once
(R139, R140; that the choice and the start are two steps is the model's, log entry 16). A drain retires a record (R143, R148):
a cell drain first raises EXPIRED/DRAINED for a QUEUED or HELD one and FORCED_OUT/DRAINED for another, a port drain nothing;
then comes the change of its state, then its retirement. No pass follows. A step takes the first record of the job's set and
leaves the job to its completion. -/
def Obligations.DrainJobsStartAndStep : Prop :=
  ((∀ (s : State) (p : PortIx), s.job = none → (s.chosen = some (.portDrain p) ∨ s.chosen = none ∧ (s.port p).drainFlag = true
      ∧ ∀ o : PortIx, o < p → (s.port o).drainFlag = false) → ∃ w : State, exec .drainJobStart s = .next (w.settlePortDrain p)
      ∧ w.port p = { s.port p with drainFlag := false } ∧ PortsKept s w [p] ∧ w.job = some (.portDrain p) ∧ w.chosen = none
      ∧ { w with ports := s.ports, job := s.job, chosen := s.chosen } = s)
  ∧ ∀ (s : State) (c : CellIx), s.job = none → (s.chosen = some (.cellDrain c) ∨ s.chosen = none ∧ (s.cell c).drainFlag = true
      ∧ (∀ o, (s.port o).drainFlag = false) ∧ ∀ d : CellIx, d < c → (s.cell d).drainFlag = false) → ∃ w : State,
      exec .drainJobStart s = .next (w.settleCellDrain c)
      ∧ w.cell c = { s.cell c with drainFlag := false } ∧ CellsKept s w [c] ∧ w.job = some (.cellDrain c) ∧ w.chosen = none
      ∧ { w with cells := s.cells, job := s.job, chosen := s.chosen } = s)
  ∧ ((∀ (s x : State) (i : Nat) (ses : Session) (st : Stage), s.liveAt i = some (ses, st) →
    (x = (s.raiseSession i (if st.isQueued = true ∨ st.isHeld = true then .expired else .forcedOut) .drained).giveUp i ses st →
      RetiredFrom x (s.drainRecord true i) i ses)
    ∧ (x = s.giveUp i ses st → RetiredFrom x (s.drainRecord false i) i ses))
  ∧ (∀ (s : State) (c : CellIx) (i : Nat), s.job = some (.cellDrain c) → s.nextToDrain c = some i →
    exec .cellDrainStep s = .next ((s.drainRecord true i).settleCellDrain c))
  ∧ ∀ (s : State) (p : PortIx) (c : CellIx) (i : Nat), s.job = some (.portDrain p) → (s.cell c).owner = p →
    s.nextToDrain c = some i → (∀ d : CellIx, d < c → (s.cell d).owner = p → s.nextToDrain d = none) →
    exec .portDrainStep s = .next ((s.drainRecord false i).settlePortDrain p))

/-! ### The management port -/

/-- A transaction (R175) begins with its command byte, 0x03 to read and 0x02 to write, and its start address; any other command
makes no access and reads 0. That the select asserted with a transaction in progress begins a new one is the model's choice (log
entry 11). Release ends it. Open Table opens the table (R177). Nothing else changes. -/
def Obligations.TransactionsBeginAndEnd : Prop :=
  (∀ (s : State) (command : Byte) (a : BitVec 16), ∃ t, exec (.selectAssert command a) s = .next t
    ∧ t.transaction = some (Transaction.mk (if command = 0x03#8 then .read else if command = 0x02#8 then .write else .noAccess) a)
    ∧ (command ≠ 0x03#8 → command ≠ 0x02#8 → t.dataOut = some 0)
    ∧ { t with transaction := s.transaction, dataOut := s.dataOut } = s)
  ∧ (∀ s : State, ∃ t, exec .selectRelease s = .next t ∧ t.transaction = none
    ∧ { t with transaction := s.transaction, dataOut := s.dataOut } = s)
  ∧ ∀ s : State, s.writesAt 0x10 → exec .openTable s = .next ({ s with tableOpen := true }.pastWrite 0x10)

/-- Read accesses (R175, R176): an address that names no field reads as 0; a one-byte field as its value; the high byte of a
two-byte field captures its whole value and returns the upper half; the low byte returns the lower half of the capture when
it was taken from the same field, and of the present value otherwise. The bits the layouts list no meaning for are left open.
Nothing else changes but the current address and the model's count of free values. What each address of 11.1 reads as follows,
in every state: identification 0xBE, 0x3260, 0x01 (R181), the table status, counts, events, W and S, the blocks of every port,
cell and class; every other address reads as 0. -/
def Obligations.ReadsReturnAndCaptureTheField : Prop :=
  (∀ (s : State) (a : BitVec 16), s.transaction = some (Transaction.mk .read a) → ∃ (t : State) (v : Field → Half),
    exec .highByteRead s = .next t
    ∧ (∀ f k, k < 16 → f.unlisted.getLsbD k = false → (v f).getLsbD k = (s.fieldValue f).testBit k)
    ∧ (locate a = none → t.dataOut = some 0 ∧ t.capture = s.capture)
    ∧ (∀ f, locate a = some (f, .whole) → t.dataOut = some ((v f).setWidth 8) ∧ t.capture = s.capture)
    ∧ (∀ f, locate a = some (f, .high) → t.dataOut = some ((v f).extractLsb' 8 8) ∧ t.capture = Capture.mk (v f) (some f))
    ∧ (∀ f, locate a = some (f, .low) → t.capture = s.capture
      ∧ t.dataOut = some (if s.capture.field = some f then s.capture.value.setWidth 8 else (v f).setWidth 8))
    ∧ t.transaction = some (Transaction.mk .read (a + 1))
    ∧ { t with transaction := s.transaction, dataOut := s.dataOut, capture := s.capture, freeDraws := s.freeDraws } = s)
  ∧ ∀ s : State, s.globalsRead ∧ (∀ p, s.portReads p) ∧ (∀ c, s.cellReads c) ∧ (∀ k, s.classReads k)
    ∧ ∀ a, namesNoField a → s.readsByte a 8 0

/-- Writes that no other row names (R23, R32, R175, R176): a byte to a high byte is held; h is stored; the fields of a class
are stored with their clamps, a two-byte one from the held byte and the byte written. A byte to an address that names no field
or a field marked read is ignored, and so is a table control or cell command byte that is no code of the table; the held byte
stays. Nothing else changes but the current address. -/
def Obligations.PlainWritesStoreTheirFields : Prop :=
  ∀ (s : State) (b : Byte) (c : CellIx) (k : ClassIx) (f : Field),
    (∀ a, s.writesAt a → locate (BitVec.ofNat 16 a) = some (f, .high) → f.writableHalf = true →
      exec (.registerWrite b) s = .next ({ s with holding := b }.pastWrite a))
    ∧ (∀ a, s.writesAt a → locate (BitVec.ofNat 16 a) = none ∨ namesNoField a ∨ isReadOnly a →
      exec (.registerWrite b) s = .next (s.pastWrite a))
    ∧ (s.writesAt 0x10 → b ≠ 0x01#8 → b ≠ 0x02#8 → exec (.registerWrite b) s = .next (s.pastWrite 0x10))
    ∧ (s.writesAt (0x118 + 32 * c.val) → b = 0x00#8 ∨ 5 < b.toNat →
      exec (.registerWrite b) s = .next (s.pastWrite (0x118 + 32 * c.val)))
    ∧ (s.writesAt (0x10C + 32 * c.val) → ∃ w : State, exec (.registerWrite b) s = .next (w.pastWrite (0x10C + 32 * c.val))
      ∧ w.cell c = { s.cell c with hysteresis := b.toNat } ∧ CellsKept s w [c] ∧ { w with cells := s.cells } = s)
    ∧ (∀ offset, offset ∈ [0, 1, 2, 3, 5, 7, 9] → s.writesAt (0x400 + 16 * k.val + offset) → ∃ w : State,
      exec (.registerWrite b) s = .next (w.pastWrite (0x400 + 16 * k.val + offset))
      ∧ (∀ o, o ≠ k → w.classAt o = s.classAt o) ∧ { w with classes := s.classes } = s
      ∧ w.classAt k = { s.classAt k with
          level := if offset = 0 then min 15 b.toNat else (s.classAt k).level
          emergency := if offset = 1 then b.getLsbD 0 else (s.classAt k).emergency
          mayPreempt := if offset = 1 then b.getLsbD 1 else (s.classAt k).mayPreempt
          vulnerable := if offset = 1 then b.getLsbD 2 else (s.classAt k).vulnerable
          mayQueue := if offset = 1 then b.getLsbD 3 else (s.classAt k).mayQueue
          boost := if offset = 2 then min 3 b.toNat else (s.classAt k).boost
          refuseLevel := if offset = 3 then min 4 (max 1 b.toNat) else (s.classAt k).refuseLevel
          setupGuard := if offset = 5 then (s.holding ++ b).toNat else (s.classAt k).setupGuard
          grace := if offset = 7 then (s.holding ++ b).toNat else (s.classAt k).grace
          maxWait := if offset = 9 then (s.holding ++ b).toNat else (s.classAt k).maxWait })

/-- Table Reset (R14, R69, R127, R132, R139, R178): the table is closed; every record is FREE, the generation of each that was
not advanced; the free list is in ascending order and the directory empty; each cell's counters, queue and lists are empty, a
DRAINING one is CLOSED, and occupancy and level are formed afresh from level 0; rings, backlogs and lines are cleared; the job
ends, the drain flags are those of the DRAINING ports, and the idle engine looks among them (R140; log entry 16). Nothing else
changes. -/
def Obligations.TableResetEmptiesTheTable : Prop :=
  ∀ s : State, s.writesAt 0x10 → s.storeCanonical = true → ∃ w : State, exec .tableReset s = .next (w.pastWrite 0x10)
    ∧ w.tableOpen = false ∧ w.job = none ∧ Chooses { s with chosen := none } w ∧ w.freeList = List.range 16384 ∧ (∀ k, w.findKey k = none)
    ∧ (∀ i, w.record i = Record.mk (if (s.record i).life = .free then (s.record i).generation
        else if (s.record i).generation = 255 then 1 else (s.record i).generation + 1) .free none)
    ∧ (∀ c, w.cell c = { s.cell c with
        state := if (s.cell c).state = .draining then .closed else (s.cell c).state
        countA := 0, countC := 0, countR := 0, queue := [], enqueueOrder := [], rankList := [], pendingLevel := false
        drainFlag := false
        occupancy := if (s.cell c).capacity = 0 then 1000 else 0
        level := (w.cell c).level })
    ∧ (∀ c, s.settingsInRange → (w.cell c).level
        = if (s.cell c).capacity = 0 ∧ ((s.cell c).state = .opened ∨ (s.cell c).state = .barred) then 3 else 0)
    ∧ (∀ p, w.port p = { s.port p with
        ring := [], backlog := [], attnLine := false, pulseStop := none, drainFlag := decide ((s.port p).state = .draining) })
    ∧ { w with tableOpen := s.tableOpen, records := s.records, freeList := s.freeList, directory := s.directory
               cells := s.cells, ports := s.ports, job := s.job, chosen := s.chosen } = s

/-- The cell commands (R27, R131, R145), each taken in the states the table of R27 gives and refused in the others, a refusal
setting the result alone: Open recomputes; Bar; Unbar starts a queue service pass; Drain sets the cell's flag, and an idle
engine looks for a job (R140; log entry 16); Stop Drain clears it, ends the cell's job in progress, lets the engine look for
another, and raises DRAIN_DONE. -/
def Obligations.CellCommandsMoveTheCell : Prop :=
  ∀ (s refused : State) (c : CellIx) (a : Nat) (k : Cell) (moved : CellState → Cell), a = 0x118 + 32 * c.val → s.writesAt a →
    k = s.cell c → moved = (fun st => { k with state := st, result := .done }) →
    refused = s.modCell c (fun e => { e with result := .refused }) →
    (k.state ≠ .closed → exec .openCell s = .next (refused.pastWrite a))
    ∧ (k.state = .closed → ∃ t, exec .openCell s = .next (t.pastWrite a) ∧ StoreKept s t
      ∧ CellIs t c (moved .opened).recomputed ∧ CellsKept s t [c] ∧ Delivers s t k.owner (levelNotices s t c)
      ∧ PortsKept s t [k.owner] ∧ t.background = s.background ∧ EventsKept s t)
    ∧ (k.state ≠ .opened → exec .barCell s = .next (refused.pastWrite a))
    ∧ (k.state = .opened → exec .barCell s = .next ((s.modCell c fun _ => moved .barred).pastWrite a))
    ∧ (k.state ≠ .barred → exec .unbarCell s = .next (refused.pastWrite a))
    ∧ (k.state = .barred →
      exec .unbarCell s = .next (((s.modCell c fun _ => moved .opened).servicePass c).pastWrite a))
    ∧ (k.state = .closed ∨ k.state = .draining → exec .drainCell s = .next (refused.pastWrite a))
    ∧ (k.state = .opened ∨ k.state = .barred → ∃ w : State, exec .drainCell s = .next (w.pastWrite a)
      ∧ { w with chosen := s.chosen } = (s.modCell c fun _ => { moved .draining with drainFlag := true }) ∧ Chooses s w)
    ∧ (k.state ≠ .draining → exec .stopDrain s = .next (refused.pastWrite a))
    ∧ (k.state = .draining → ∃ w : State, exec .stopDrain s = .next ((w.raiseEvent 256#10).pastWrite a)
      ∧ { w with job := s.job, chosen := s.chosen } = (s.modCell c fun _ => { moved .barred with drainFlag := false })
      ∧ w.job = (if s.job = some (.cellDrain c) then none else s.job)
      ∧ Chooses { s with chosen := if s.chosen = some (.cellDrain c) then none else s.chosen } w)

/-- Writes of a cell's capacity, floor and thresholds (R23, R31, R128, R133): the value is the held byte and the byte written, a
threshold clamped to 1 to 1000. A new K recomputes, and a higher one starts a queue service pass; a new threshold recomputes;
a write of F recomputes nothing, and a lower one starts a pass; a value already held changes nothing. -/
def Obligations.CellWritesRecomputeAndServe : Prop :=
  ∀ (s : State) (b : Byte) (c : CellIx) (k : Cell) (v u : Nat), k = s.cell c → v = (s.holding ++ b).toNat →
    u = min 1000 (max 1 v) →
    (s.writesAt (0x103 + 32 * c.val) →
      (v = k.capacity → exec (.capacityWrite b) s = .next (s.pastWrite (0x103 + 32 * c.val)))
      ∧ (v ≠ k.capacity → ∃ w : State, StoreKept s w ∧ CellIs w c { k with capacity := v }.recomputed ∧ CellsKept s w [c]
        ∧ Delivers s w k.owner (levelNotices s w c) ∧ PortsKept s w [k.owner] ∧ w.background = s.background ∧ EventsKept s w
        ∧ exec (.capacityWrite b) s
          = .next ((if k.capacity < v then w.servicePass c else w).pastWrite (0x103 + 32 * c.val))))
    ∧ (s.writesAt (0x105 + 32 * c.val) → ∃ w : State, w.cell c = { k with floor := v } ∧ CellsKept s w [c] ∧ { w with cells := s.cells } = s
      ∧ exec (.floorWrite b) s = .next ((if v < k.floor then w.servicePass c else w).pastWrite (0x105 + 32 * c.val)))
    ∧ ∀ (j : Nat) (n : Cell), (j = 0 ∧ n = { k with t1 := u } ∨ j = 1 ∧ n = { k with t2 := u } ∨ j = 2 ∧ n = { k with t3 := u }) →
      s.writesAt (0x107 + 2 * j + 32 * c.val) →
      (n = k → exec (.thresholdWrite b) s = .next (s.pastWrite (0x107 + 2 * j + 32 * c.val)))
      ∧ (n ≠ k → ∃ w : State, StoreKept s w ∧ CellIs w c n.recomputed ∧ CellsKept s w [c] ∧ Delivers s w k.owner (levelNotices s w c)
        ∧ PortsKept s w [k.owner] ∧ w.background = s.background ∧ EventsKept s w
        ∧ exec (.thresholdWrite b) s = .next (w.pastWrite (0x107 + 2 * j + 32 * c.val)))

/-- Writes of a cell's owner port and queue depth limit (R23, R29, R75, R77). The owner is taken, above 3 as 3, while the cell
is CLOSED with no pending LEVEL entry, and ignored otherwise. The limit is taken, above 64 as 64; a queue longer than it is
cut back from the tail, emergency records kept, each ordinary record cut retired with EXPIRED/DISPLACED, tail first; a pass
follows when the head was cut. -/
def Obligations.OwnerAndDepthLimitWrites : Prop :=
  ∀ (s : State) (b : Byte) (c : CellIx) (k : Cell), k = s.cell c →
    (s.writesAt (0x101 + 32 * c.val) →
      (k.state = .closed → k.pendingLevel = false → ∃ w : State, exec (.ownerPortWrite b) s = .next (w.pastWrite (0x101 + 32 * c.val))
        ∧ ((w.cell c).owner.val = min 3 b.toNat ∧ w.cell c = { k with owner := (w.cell c).owner }) ∧ CellsKept s w [c]
        ∧ { w with cells := s.cells } = s)
      ∧ (k.state ≠ .closed ∨ k.pendingLevel = true →
        exec (.ownerPortWrite b) s = .next (s.pastWrite (0x101 + 32 * c.val))))
    ∧ (s.writesAt (0x10D + 32 * c.val) → s.storeExact → s.accountsExact → ∃ (w : State) (kept cut : List Nat),
      exec (.depthLimitWrite b) s
        = .next ((if kept.head? = k.queue.head? then w else w.servicePass c).pastWrite (0x10D + 32 * c.val))
      ∧ k.queue = kept ++ cut ∧ kept = k.queue.take (max (min 64 b.toNat) (k.queue.countP s.emergencyAt))
      ∧ w.cell c = { k with
          depthLimit := min 64 b.toNat
          queue := kept
          enqueueOrder := k.enqueueOrder.filter fun j => decide (j ∉ cut) }
      ∧ (∀ n i, cut.reverse[n]? = some i → ∃ ses st, s.liveAt i = some (ses, st) ∧ w.findKey ses.key = none
        ∧ w.record i = Record.mk (nextGeneration (s.record i).generation)
          (if (s.pendingAfter k.owner n i (s.noticeOf i ses .expired .displaced)).isSome then .spent else .free)
          (s.pendingAfter k.owner n i (s.noticeOf i ses .expired .displaced)))
      ∧ Delivers s w k.owner (cut.reverse.filterMap fun i => (s.liveAt i).map fun x => s.ringNotice i x.1 .expired .displaced)
      ∧ w.freeList = s.freeList ++ cut.reverse.filter (fun i => decide ((w.record i).pending = none))
      ∧ (∀ key, (∀ i ses st, i ∈ cut → s.liveAt i = some (ses, st) → ses.key ≠ key) → w.findKey key = s.findKey key)
      ∧ RecordsKept s w cut ∧ CellsKept s w [c] ∧ PortsKept s w [k.owner] ∧ w.background = s.background ∧ EventsKept s w)

/-- A write of the aging weight (R72, R73): above 4,095 as 4,095; the value already held changes nothing; otherwise every QUEUED
record's virtual arrival is formed again and every queue put in order, records taken in enqueue order. Where the waiting
records arrived at most 65,535 ms ago, the ordinary tier then stands in ascending virtual arrival. -/
def Obligations.AgingWeightWritesReorderTheQueues : Prop :=
  ∀ (s : State) (b : Byte) (v : Nat), s.writesAt 0x21 → v = min 4095 (s.holding ++ b).toNat →
    (v = s.agingWeight → exec (.agingWeightWrite b) s = .next (s.pastWrite 0x21))
    ∧ (v ≠ s.agingWeight → s.storeCanonical = true → ∃ w : State, exec (.agingWeightWrite b) s = .next (w.pastWrite 0x21)
      ∧ w.agingWeight = v ∧ StoreListsKept s w
      ∧ (∀ i, w.record i = match (s.record i).life with
        | .live ses (.queued arrival _ deadline) => { s.record i with
            life := .live ses (.queued arrival (arrival - BitVec.ofNat 32 (ses.level * v)) deadline) }
        | _ => s.record i)
      ∧ (∀ c, w.cell c = { s.cell c with
          queue := (s.cell c).enqueueOrder.foldl (fun l i => queueInsert w.emergencyAt w.virtualAt i l) [] })
      ∧ { w with agingWeight := s.agingWeight, records := s.records, cells := s.cells } = s
      ∧ ((∀ c, s.cellExact c) → (∀ i ses a va d, s.liveAt i = some (ses, .queued a va d) →
          ses.level ≤ 15 ∧ (s.tick - a).toNat ≤ 65535) →
        ∀ c, (w.cell c).queue.Perm (s.cell c).queue ∧ (w.cell c).queue.Pairwise (fun i j =>
          (w.emergencyAt j = true → w.emergencyAt i = true)
          ∧ (w.emergencyAt i = false → w.emergencyAt j = false → earlier (w.virtualAt j) (w.virtualAt i) = false))))

/-- A write of the supervision interval (R124, R125): above 5,000 as 5,000; the value already held changes nothing; 0 disables
supervision; a nonzero value after 0 restarts the watch of every UP port; another nonzero value takes every UP port whose age
has reached it to DRAINING and raises its PORT_DOWN, in an order left open: an idle engine with nothing pending chooses the
drain of the port taken first, and the other flags wait (R140; the choice is a field of the model, log entries 4 and 16). -/
def Obligations.SupervisionWritesJudgeTheAges : Prop :=
  ∀ (s : State) (b : Byte) (v : Nat), s.writesAt 0x23 → v = min 5000 (s.holding ++ b).toNat →
    (v = s.supervision → exec (.supervisionIntervalWrite b) s = .next (s.pastWrite 0x23))
    ∧ (v ≠ s.supervision → v = 0 → exec (.supervisionIntervalWrite b) s = .next ({ s with supervision := 0 }.pastWrite 0x23))
    ∧ (v ≠ s.supervision → v ≠ 0 → s.supervision = 0 → ∃ w : State, exec (.supervisionIntervalWrite b) s = .next (w.pastWrite 0x23)
      ∧ w.supervision = v ∧ { w with supervision := s.supervision, ports := s.ports } = s
      ∧ ∀ p, w.port p = { s.port p with timestamp := if (s.port p).state = .up then s.tick else (s.port p).timestamp })
    ∧ (v ≠ s.supervision → v ≠ 0 → s.supervision ≠ 0 → s.backlogExact → ∃ (w : State) (order : List PortIx),
      exec (.supervisionIntervalWrite b) s = .next (w.pastWrite 0x23) ∧ order.Nodup
      ∧ (∀ p, p ∈ order ↔ (s.port p).state = .up ∧ v ≤ (s.tick - (s.port p).timestamp).toNat)
      ∧ (∀ p, p ∈ order → ∃ x, EntersDraining s x p ∧ w.port p = x.port p) ∧ (∀ p, p ∉ order → w.port p = s.port p)
      ∧ BacklogLeft s w (order.flatMap fun p => (s.port p).backlog)
      ∧ (∀ k, w.eventRaw.getLsbD k = (s.eventRaw.getLsbD k || decide (∃ p, p ∈ order ∧ p.val = k)))
      ∧ (s.engineExact → w.chosen = if s.job = none ∧ s.chosen = none then order.head?.map Job.portDrain else s.chosen)
      ∧ w.background = { s.background with supervision := v, chosen := w.chosen, freeDraws := w.freeDraws })

/-- Writes of a port's attention byte, pulse width and ring size (R160, R161, R162): mode, polarity and width are taken while
enable is clear, a width of 0 as 1; then the enable is taken, setting it acting on a ring that holds notices and clearing it
ending any pulse. A size code of 0 to 3 is taken while ring and backlog are empty. Everything else is ignored. -/
def Obligations.PortWritesTakeTheirSettings : Prop :=
  ∀ (s : State) (b : Byte) (p : PortIx) (q : Port), q = s.port p →
    (s.writesAt (0x31 + 6 * p.val) → ∃ w : State, exec (.attentionWrite b) s = .next (w.pastWrite (0x31 + 6 * p.val))
      ∧ PortsKept s w [p] ∧ { w with ports := s.ports } = s
      ∧ (q.attnEnable = true → w.port p = if b.getLsbD 0 = true then q else
          { q with attnEnable := false, attnLine := false, pulseStop := none })
      ∧ (q.attnEnable = false → b.getLsbD 0 = false → w.port p = { q with attnPulse := b.getLsbD 1, attnActiveLow := b.getLsbD 2 })
      ∧ (q.attnEnable = false → b.getLsbD 0 = true → w.port p = ({ q with
          attnEnable := true, attnPulse := b.getLsbD 1, attnActiveLow := b.getLsbD 2 } : Port).followRing s.tick 0))
    ∧ (s.writesAt (0x32 + 6 * p.val) → ∃ w : State, exec (.attentionWrite b) s = .next (w.pastWrite (0x32 + 6 * p.val))
      ∧ PortsKept s w [p] ∧ { w with ports := s.ports } = s
      ∧ w.port p = if q.attnEnable = true then q else { q with pulseWidth := max 1 b.toNat })
    ∧ (s.writesAt (0x30 + 6 * p.val) → ∃ w : State, exec (.ringSizeWrite b) s = .next (w.pastWrite (0x30 + 6 * p.val))
      ∧ PortsKept s w [p] ∧ { w with ports := s.ports } = s
      ∧ w.port p = if b.toNat ≤ 3 ∧ q.ring = [] ∧ q.backlog = [] then { q with ringSize := 2 ^ (6 + b.toNat) } else q)
end

