-- ==== Sys2Proof/Laws/State.lean ====
section
/-! SUPPORT. One lemma for each field and accessor that a basic update leaves alone, each true by rfl. -/

namespace Sys2Proof.Machine

/-! ### setRecord -/

@[simp] theorem State.setRecord_pending (s : State) (i : Nat) (r : Record) : (s.setRecord i r).pending = s.pending := rfl
@[simp] theorem State.setRecord_tick (s : State) (i : Nat) (r : Record) : (s.setRecord i r).tick = s.tick := rfl
@[simp] theorem State.setRecord_tableOpen (s : State) (i : Nat) (r : Record) : (s.setRecord i r).tableOpen = s.tableOpen := rfl
@[simp] theorem State.setRecord_freeList (s : State) (i : Nat) (r : Record) : (s.setRecord i r).freeList = s.freeList := rfl
@[simp] theorem State.setRecord_directory (s : State) (i : Nat) (r : Record) : (s.setRecord i r).directory = s.directory := rfl
@[simp] theorem State.setRecord_cells (s : State) (i : Nat) (r : Record) : (s.setRecord i r).cells = s.cells := rfl
@[simp] theorem State.setRecord_classes (s : State) (i : Nat) (r : Record) : (s.setRecord i r).classes = s.classes := rfl
@[simp] theorem State.setRecord_ports (s : State) (i : Nat) (r : Record) : (s.setRecord i r).ports = s.ports := rfl
@[simp] theorem State.setRecord_agingWeight (s : State) (i : Nat) (r : Record) : (s.setRecord i r).agingWeight = s.agingWeight := rfl
@[simp] theorem State.setRecord_supervision (s : State) (i : Nat) (r : Record) : (s.setRecord i r).supervision = s.supervision := rfl
@[simp] theorem State.setRecord_urgentLast (s : State) (i : Nat) (r : Record) : (s.setRecord i r).urgentLast = s.urgentLast := rfl
@[simp] theorem State.setRecord_normalLast (s : State) (i : Nat) (r : Record) : (s.setRecord i r).normalLast = s.normalLast := rfl
@[simp] theorem State.setRecord_job (s : State) (i : Nat) (r : Record) : (s.setRecord i r).job = s.job := rfl
@[simp] theorem State.setRecord_chosen (s : State) (i : Nat) (r : Record) : (s.setRecord i r).chosen = s.chosen := rfl
@[simp] theorem State.setRecord_eventRaw (s : State) (i : Nat) (r : Record) : (s.setRecord i r).eventRaw = s.eventRaw := rfl
@[simp] theorem State.setRecord_eventEnable (s : State) (i : Nat) (r : Record) : (s.setRecord i r).eventEnable = s.eventEnable := rfl
@[simp] theorem State.setRecord_interruptLine (s : State) (i : Nat) (r : Record) : (s.setRecord i r).interruptLine = s.interruptLine := rfl
@[simp] theorem State.setRecord_holding (s : State) (i : Nat) (r : Record) : (s.setRecord i r).holding = s.holding := rfl
@[simp] theorem State.setRecord_capture (s : State) (i : Nat) (r : Record) : (s.setRecord i r).capture = s.capture := rfl
@[simp] theorem State.setRecord_transaction (s : State) (i : Nat) (r : Record) : (s.setRecord i r).transaction = s.transaction := rfl
@[simp] theorem State.setRecord_dataOut (s : State) (i : Nat) (r : Record) : (s.setRecord i r).dataOut = s.dataOut := rfl
@[simp] theorem State.setRecord_freeDraws (s : State) (i : Nat) (r : Record) : (s.setRecord i r).freeDraws = s.freeDraws := rfl
@[simp] theorem State.setRecord_findKey (s : State) (i : Nat) (r : Record) (l : Key) : (s.setRecord i r).findKey l = s.findKey l := rfl
@[simp] theorem State.setRecord_cell (s : State) (i : Nat) (r : Record) (d : CellIx) : (s.setRecord i r).cell d = s.cell d := rfl
@[simp] theorem State.setRecord_classAt (s : State) (i : Nat) (r : Record) (j : ClassIx) : (s.setRecord i r).classAt j = s.classAt j := rfl
@[simp] theorem State.setRecord_port (s : State) (i : Nat) (r : Record) (o : PortIx) : (s.setRecord i r).port o = s.port o := rfl

/-! ### setLive -/

@[simp] theorem State.setLive_pending (s : State) (i : Nat) (ses : Session) (st : Stage) : (s.setLive i ses st).pending = s.pending := rfl
@[simp] theorem State.setLive_tick (s : State) (i : Nat) (ses : Session) (st : Stage) : (s.setLive i ses st).tick = s.tick := rfl
@[simp] theorem State.setLive_tableOpen (s : State) (i : Nat) (ses : Session) (st : Stage) : (s.setLive i ses st).tableOpen = s.tableOpen := rfl
@[simp] theorem State.setLive_freeList (s : State) (i : Nat) (ses : Session) (st : Stage) : (s.setLive i ses st).freeList = s.freeList := rfl
@[simp] theorem State.setLive_directory (s : State) (i : Nat) (ses : Session) (st : Stage) : (s.setLive i ses st).directory = s.directory := rfl
@[simp] theorem State.setLive_cells (s : State) (i : Nat) (ses : Session) (st : Stage) : (s.setLive i ses st).cells = s.cells := rfl
@[simp] theorem State.setLive_classes (s : State) (i : Nat) (ses : Session) (st : Stage) : (s.setLive i ses st).classes = s.classes := rfl
@[simp] theorem State.setLive_ports (s : State) (i : Nat) (ses : Session) (st : Stage) : (s.setLive i ses st).ports = s.ports := rfl
@[simp] theorem State.setLive_agingWeight (s : State) (i : Nat) (ses : Session) (st : Stage) : (s.setLive i ses st).agingWeight = s.agingWeight := rfl
@[simp] theorem State.setLive_supervision (s : State) (i : Nat) (ses : Session) (st : Stage) : (s.setLive i ses st).supervision = s.supervision := rfl
@[simp] theorem State.setLive_urgentLast (s : State) (i : Nat) (ses : Session) (st : Stage) : (s.setLive i ses st).urgentLast = s.urgentLast := rfl
@[simp] theorem State.setLive_normalLast (s : State) (i : Nat) (ses : Session) (st : Stage) : (s.setLive i ses st).normalLast = s.normalLast := rfl
@[simp] theorem State.setLive_job (s : State) (i : Nat) (ses : Session) (st : Stage) : (s.setLive i ses st).job = s.job := rfl
@[simp] theorem State.setLive_chosen (s : State) (i : Nat) (ses : Session) (st : Stage) : (s.setLive i ses st).chosen = s.chosen := rfl
@[simp] theorem State.setLive_eventRaw (s : State) (i : Nat) (ses : Session) (st : Stage) : (s.setLive i ses st).eventRaw = s.eventRaw := rfl
@[simp] theorem State.setLive_eventEnable (s : State) (i : Nat) (ses : Session) (st : Stage) : (s.setLive i ses st).eventEnable = s.eventEnable := rfl
@[simp] theorem State.setLive_interruptLine (s : State) (i : Nat) (ses : Session) (st : Stage) : (s.setLive i ses st).interruptLine = s.interruptLine := rfl
@[simp] theorem State.setLive_holding (s : State) (i : Nat) (ses : Session) (st : Stage) : (s.setLive i ses st).holding = s.holding := rfl
@[simp] theorem State.setLive_capture (s : State) (i : Nat) (ses : Session) (st : Stage) : (s.setLive i ses st).capture = s.capture := rfl
@[simp] theorem State.setLive_transaction (s : State) (i : Nat) (ses : Session) (st : Stage) : (s.setLive i ses st).transaction = s.transaction := rfl
@[simp] theorem State.setLive_dataOut (s : State) (i : Nat) (ses : Session) (st : Stage) : (s.setLive i ses st).dataOut = s.dataOut := rfl
@[simp] theorem State.setLive_freeDraws (s : State) (i : Nat) (ses : Session) (st : Stage) : (s.setLive i ses st).freeDraws = s.freeDraws := rfl
@[simp] theorem State.setLive_findKey (s : State) (i : Nat) (ses : Session) (st : Stage) (l : Key) : (s.setLive i ses st).findKey l = s.findKey l := rfl
@[simp] theorem State.setLive_cell (s : State) (i : Nat) (ses : Session) (st : Stage) (d : CellIx) : (s.setLive i ses st).cell d = s.cell d := rfl
@[simp] theorem State.setLive_classAt (s : State) (i : Nat) (ses : Session) (st : Stage) (j : ClassIx) : (s.setLive i ses st).classAt j = s.classAt j := rfl
@[simp] theorem State.setLive_port (s : State) (i : Nat) (ses : Session) (st : Stage) (o : PortIx) : (s.setLive i ses st).port o = s.port o := rfl

/-! ### setPending -/

@[simp] theorem State.setPending_pending (s : State) (i : Nat) (n : Option PendingNotice) : (s.setPending i n).pending = s.pending := rfl
@[simp] theorem State.setPending_tick (s : State) (i : Nat) (n : Option PendingNotice) : (s.setPending i n).tick = s.tick := rfl
@[simp] theorem State.setPending_tableOpen (s : State) (i : Nat) (n : Option PendingNotice) : (s.setPending i n).tableOpen = s.tableOpen := rfl
@[simp] theorem State.setPending_freeList (s : State) (i : Nat) (n : Option PendingNotice) : (s.setPending i n).freeList = s.freeList := rfl
@[simp] theorem State.setPending_directory (s : State) (i : Nat) (n : Option PendingNotice) : (s.setPending i n).directory = s.directory := rfl
@[simp] theorem State.setPending_cells (s : State) (i : Nat) (n : Option PendingNotice) : (s.setPending i n).cells = s.cells := rfl
@[simp] theorem State.setPending_classes (s : State) (i : Nat) (n : Option PendingNotice) : (s.setPending i n).classes = s.classes := rfl
@[simp] theorem State.setPending_ports (s : State) (i : Nat) (n : Option PendingNotice) : (s.setPending i n).ports = s.ports := rfl
@[simp] theorem State.setPending_agingWeight (s : State) (i : Nat) (n : Option PendingNotice) : (s.setPending i n).agingWeight = s.agingWeight := rfl
@[simp] theorem State.setPending_supervision (s : State) (i : Nat) (n : Option PendingNotice) : (s.setPending i n).supervision = s.supervision := rfl
@[simp] theorem State.setPending_urgentLast (s : State) (i : Nat) (n : Option PendingNotice) : (s.setPending i n).urgentLast = s.urgentLast := rfl
@[simp] theorem State.setPending_normalLast (s : State) (i : Nat) (n : Option PendingNotice) : (s.setPending i n).normalLast = s.normalLast := rfl
@[simp] theorem State.setPending_job (s : State) (i : Nat) (n : Option PendingNotice) : (s.setPending i n).job = s.job := rfl
@[simp] theorem State.setPending_chosen (s : State) (i : Nat) (n : Option PendingNotice) : (s.setPending i n).chosen = s.chosen := rfl
@[simp] theorem State.setPending_eventRaw (s : State) (i : Nat) (n : Option PendingNotice) : (s.setPending i n).eventRaw = s.eventRaw := rfl
@[simp] theorem State.setPending_eventEnable (s : State) (i : Nat) (n : Option PendingNotice) : (s.setPending i n).eventEnable = s.eventEnable := rfl
@[simp] theorem State.setPending_interruptLine (s : State) (i : Nat) (n : Option PendingNotice) : (s.setPending i n).interruptLine = s.interruptLine := rfl
@[simp] theorem State.setPending_holding (s : State) (i : Nat) (n : Option PendingNotice) : (s.setPending i n).holding = s.holding := rfl
@[simp] theorem State.setPending_capture (s : State) (i : Nat) (n : Option PendingNotice) : (s.setPending i n).capture = s.capture := rfl
@[simp] theorem State.setPending_transaction (s : State) (i : Nat) (n : Option PendingNotice) : (s.setPending i n).transaction = s.transaction := rfl
@[simp] theorem State.setPending_dataOut (s : State) (i : Nat) (n : Option PendingNotice) : (s.setPending i n).dataOut = s.dataOut := rfl
@[simp] theorem State.setPending_freeDraws (s : State) (i : Nat) (n : Option PendingNotice) : (s.setPending i n).freeDraws = s.freeDraws := rfl
@[simp] theorem State.setPending_findKey (s : State) (i : Nat) (n : Option PendingNotice) (l : Key) : (s.setPending i n).findKey l = s.findKey l := rfl
@[simp] theorem State.setPending_cell (s : State) (i : Nat) (n : Option PendingNotice) (d : CellIx) : (s.setPending i n).cell d = s.cell d := rfl
@[simp] theorem State.setPending_classAt (s : State) (i : Nat) (n : Option PendingNotice) (j : ClassIx) : (s.setPending i n).classAt j = s.classAt j := rfl
@[simp] theorem State.setPending_port (s : State) (i : Nat) (n : Option PendingNotice) (o : PortIx) : (s.setPending i n).port o = s.port o := rfl

/-! ### giveBack -/

@[simp] theorem State.giveBack_pending (s : State) (i : Nat) : (s.giveBack i).pending = s.pending := rfl
@[simp] theorem State.giveBack_tick (s : State) (i : Nat) : (s.giveBack i).tick = s.tick := rfl
@[simp] theorem State.giveBack_tableOpen (s : State) (i : Nat) : (s.giveBack i).tableOpen = s.tableOpen := rfl
@[simp] theorem State.giveBack_records (s : State) (i : Nat) : (s.giveBack i).records = s.records := rfl
@[simp] theorem State.giveBack_directory (s : State) (i : Nat) : (s.giveBack i).directory = s.directory := rfl
@[simp] theorem State.giveBack_cells (s : State) (i : Nat) : (s.giveBack i).cells = s.cells := rfl
@[simp] theorem State.giveBack_classes (s : State) (i : Nat) : (s.giveBack i).classes = s.classes := rfl
@[simp] theorem State.giveBack_ports (s : State) (i : Nat) : (s.giveBack i).ports = s.ports := rfl
@[simp] theorem State.giveBack_agingWeight (s : State) (i : Nat) : (s.giveBack i).agingWeight = s.agingWeight := rfl
@[simp] theorem State.giveBack_supervision (s : State) (i : Nat) : (s.giveBack i).supervision = s.supervision := rfl
@[simp] theorem State.giveBack_urgentLast (s : State) (i : Nat) : (s.giveBack i).urgentLast = s.urgentLast := rfl
@[simp] theorem State.giveBack_normalLast (s : State) (i : Nat) : (s.giveBack i).normalLast = s.normalLast := rfl
@[simp] theorem State.giveBack_job (s : State) (i : Nat) : (s.giveBack i).job = s.job := rfl
@[simp] theorem State.giveBack_chosen (s : State) (i : Nat) : (s.giveBack i).chosen = s.chosen := rfl
@[simp] theorem State.giveBack_eventRaw (s : State) (i : Nat) : (s.giveBack i).eventRaw = s.eventRaw := rfl
@[simp] theorem State.giveBack_eventEnable (s : State) (i : Nat) : (s.giveBack i).eventEnable = s.eventEnable := rfl
@[simp] theorem State.giveBack_interruptLine (s : State) (i : Nat) : (s.giveBack i).interruptLine = s.interruptLine := rfl
@[simp] theorem State.giveBack_holding (s : State) (i : Nat) : (s.giveBack i).holding = s.holding := rfl
@[simp] theorem State.giveBack_capture (s : State) (i : Nat) : (s.giveBack i).capture = s.capture := rfl
@[simp] theorem State.giveBack_transaction (s : State) (i : Nat) : (s.giveBack i).transaction = s.transaction := rfl
@[simp] theorem State.giveBack_dataOut (s : State) (i : Nat) : (s.giveBack i).dataOut = s.dataOut := rfl
@[simp] theorem State.giveBack_freeDraws (s : State) (i : Nat) : (s.giveBack i).freeDraws = s.freeDraws := rfl
@[simp] theorem State.giveBack_record (s : State) (i : Nat) (j : Nat) : (s.giveBack i).record j = s.record j := rfl
@[simp] theorem State.giveBack_liveAt (s : State) (i : Nat) (j : Nat) : (s.giveBack i).liveAt j = s.liveAt j := rfl
@[simp] theorem State.giveBack_handleOf (s : State) (i : Nat) (j : Nat) : (s.giveBack i).handleOf j = s.handleOf j := rfl
@[simp] theorem State.giveBack_findKey (s : State) (i : Nat) (l : Key) : (s.giveBack i).findKey l = s.findKey l := rfl
@[simp] theorem State.giveBack_cell (s : State) (i : Nat) (d : CellIx) : (s.giveBack i).cell d = s.cell d := rfl
@[simp] theorem State.giveBack_classAt (s : State) (i : Nat) (j : ClassIx) : (s.giveBack i).classAt j = s.classAt j := rfl
@[simp] theorem State.giveBack_port (s : State) (i : Nat) (o : PortIx) : (s.giveBack i).port o = s.port o := rfl

/-! ### addKey -/

@[simp] theorem State.addKey_pending (s : State) (k : Key) (h : Handle) : (s.addKey k h).pending = s.pending := rfl
@[simp] theorem State.addKey_tick (s : State) (k : Key) (h : Handle) : (s.addKey k h).tick = s.tick := rfl
@[simp] theorem State.addKey_tableOpen (s : State) (k : Key) (h : Handle) : (s.addKey k h).tableOpen = s.tableOpen := rfl
@[simp] theorem State.addKey_records (s : State) (k : Key) (h : Handle) : (s.addKey k h).records = s.records := rfl
@[simp] theorem State.addKey_freeList (s : State) (k : Key) (h : Handle) : (s.addKey k h).freeList = s.freeList := rfl
@[simp] theorem State.addKey_cells (s : State) (k : Key) (h : Handle) : (s.addKey k h).cells = s.cells := rfl
@[simp] theorem State.addKey_classes (s : State) (k : Key) (h : Handle) : (s.addKey k h).classes = s.classes := rfl
@[simp] theorem State.addKey_ports (s : State) (k : Key) (h : Handle) : (s.addKey k h).ports = s.ports := rfl
@[simp] theorem State.addKey_agingWeight (s : State) (k : Key) (h : Handle) : (s.addKey k h).agingWeight = s.agingWeight := rfl
@[simp] theorem State.addKey_supervision (s : State) (k : Key) (h : Handle) : (s.addKey k h).supervision = s.supervision := rfl
@[simp] theorem State.addKey_urgentLast (s : State) (k : Key) (h : Handle) : (s.addKey k h).urgentLast = s.urgentLast := rfl
@[simp] theorem State.addKey_normalLast (s : State) (k : Key) (h : Handle) : (s.addKey k h).normalLast = s.normalLast := rfl
@[simp] theorem State.addKey_job (s : State) (k : Key) (h : Handle) : (s.addKey k h).job = s.job := rfl
@[simp] theorem State.addKey_chosen (s : State) (k : Key) (h : Handle) : (s.addKey k h).chosen = s.chosen := rfl
@[simp] theorem State.addKey_eventRaw (s : State) (k : Key) (h : Handle) : (s.addKey k h).eventRaw = s.eventRaw := rfl
@[simp] theorem State.addKey_eventEnable (s : State) (k : Key) (h : Handle) : (s.addKey k h).eventEnable = s.eventEnable := rfl
@[simp] theorem State.addKey_interruptLine (s : State) (k : Key) (h : Handle) : (s.addKey k h).interruptLine = s.interruptLine := rfl
@[simp] theorem State.addKey_holding (s : State) (k : Key) (h : Handle) : (s.addKey k h).holding = s.holding := rfl
@[simp] theorem State.addKey_capture (s : State) (k : Key) (h : Handle) : (s.addKey k h).capture = s.capture := rfl
@[simp] theorem State.addKey_transaction (s : State) (k : Key) (h : Handle) : (s.addKey k h).transaction = s.transaction := rfl
@[simp] theorem State.addKey_dataOut (s : State) (k : Key) (h : Handle) : (s.addKey k h).dataOut = s.dataOut := rfl
@[simp] theorem State.addKey_freeDraws (s : State) (k : Key) (h : Handle) : (s.addKey k h).freeDraws = s.freeDraws := rfl
@[simp] theorem State.addKey_record (s : State) (k : Key) (h : Handle) (j : Nat) : (s.addKey k h).record j = s.record j := rfl
@[simp] theorem State.addKey_liveAt (s : State) (k : Key) (h : Handle) (j : Nat) : (s.addKey k h).liveAt j = s.liveAt j := rfl
@[simp] theorem State.addKey_handleOf (s : State) (k : Key) (h : Handle) (j : Nat) : (s.addKey k h).handleOf j = s.handleOf j := rfl
@[simp] theorem State.addKey_cell (s : State) (k : Key) (h : Handle) (d : CellIx) : (s.addKey k h).cell d = s.cell d := rfl
@[simp] theorem State.addKey_classAt (s : State) (k : Key) (h : Handle) (j : ClassIx) : (s.addKey k h).classAt j = s.classAt j := rfl
@[simp] theorem State.addKey_port (s : State) (k : Key) (h : Handle) (o : PortIx) : (s.addKey k h).port o = s.port o := rfl

/-! ### dropKey -/

@[simp] theorem State.dropKey_pending (s : State) (k : Key) : (s.dropKey k).pending = s.pending := rfl
@[simp] theorem State.dropKey_tick (s : State) (k : Key) : (s.dropKey k).tick = s.tick := rfl
@[simp] theorem State.dropKey_tableOpen (s : State) (k : Key) : (s.dropKey k).tableOpen = s.tableOpen := rfl
@[simp] theorem State.dropKey_records (s : State) (k : Key) : (s.dropKey k).records = s.records := rfl
@[simp] theorem State.dropKey_freeList (s : State) (k : Key) : (s.dropKey k).freeList = s.freeList := rfl
@[simp] theorem State.dropKey_cells (s : State) (k : Key) : (s.dropKey k).cells = s.cells := rfl
@[simp] theorem State.dropKey_classes (s : State) (k : Key) : (s.dropKey k).classes = s.classes := rfl
@[simp] theorem State.dropKey_ports (s : State) (k : Key) : (s.dropKey k).ports = s.ports := rfl
@[simp] theorem State.dropKey_agingWeight (s : State) (k : Key) : (s.dropKey k).agingWeight = s.agingWeight := rfl
@[simp] theorem State.dropKey_supervision (s : State) (k : Key) : (s.dropKey k).supervision = s.supervision := rfl
@[simp] theorem State.dropKey_urgentLast (s : State) (k : Key) : (s.dropKey k).urgentLast = s.urgentLast := rfl
@[simp] theorem State.dropKey_normalLast (s : State) (k : Key) : (s.dropKey k).normalLast = s.normalLast := rfl
@[simp] theorem State.dropKey_job (s : State) (k : Key) : (s.dropKey k).job = s.job := rfl
@[simp] theorem State.dropKey_chosen (s : State) (k : Key) : (s.dropKey k).chosen = s.chosen := rfl
@[simp] theorem State.dropKey_eventRaw (s : State) (k : Key) : (s.dropKey k).eventRaw = s.eventRaw := rfl
@[simp] theorem State.dropKey_eventEnable (s : State) (k : Key) : (s.dropKey k).eventEnable = s.eventEnable := rfl
@[simp] theorem State.dropKey_interruptLine (s : State) (k : Key) : (s.dropKey k).interruptLine = s.interruptLine := rfl
@[simp] theorem State.dropKey_holding (s : State) (k : Key) : (s.dropKey k).holding = s.holding := rfl
@[simp] theorem State.dropKey_capture (s : State) (k : Key) : (s.dropKey k).capture = s.capture := rfl
@[simp] theorem State.dropKey_transaction (s : State) (k : Key) : (s.dropKey k).transaction = s.transaction := rfl
@[simp] theorem State.dropKey_dataOut (s : State) (k : Key) : (s.dropKey k).dataOut = s.dataOut := rfl
@[simp] theorem State.dropKey_freeDraws (s : State) (k : Key) : (s.dropKey k).freeDraws = s.freeDraws := rfl
@[simp] theorem State.dropKey_record (s : State) (k : Key) (j : Nat) : (s.dropKey k).record j = s.record j := rfl
@[simp] theorem State.dropKey_liveAt (s : State) (k : Key) (j : Nat) : (s.dropKey k).liveAt j = s.liveAt j := rfl
@[simp] theorem State.dropKey_handleOf (s : State) (k : Key) (j : Nat) : (s.dropKey k).handleOf j = s.handleOf j := rfl
@[simp] theorem State.dropKey_cell (s : State) (k : Key) (d : CellIx) : (s.dropKey k).cell d = s.cell d := rfl
@[simp] theorem State.dropKey_classAt (s : State) (k : Key) (j : ClassIx) : (s.dropKey k).classAt j = s.classAt j := rfl
@[simp] theorem State.dropKey_port (s : State) (k : Key) (o : PortIx) : (s.dropKey k).port o = s.port o := rfl

/-! ### modCell -/

@[simp] theorem State.modCell_pending (s : State) (c : CellIx) (f : Cell → Cell) : (s.modCell c f).pending = s.pending := rfl
@[simp] theorem State.modCell_tick (s : State) (c : CellIx) (f : Cell → Cell) : (s.modCell c f).tick = s.tick := rfl
@[simp] theorem State.modCell_tableOpen (s : State) (c : CellIx) (f : Cell → Cell) : (s.modCell c f).tableOpen = s.tableOpen := rfl
@[simp] theorem State.modCell_records (s : State) (c : CellIx) (f : Cell → Cell) : (s.modCell c f).records = s.records := rfl
@[simp] theorem State.modCell_freeList (s : State) (c : CellIx) (f : Cell → Cell) : (s.modCell c f).freeList = s.freeList := rfl
@[simp] theorem State.modCell_directory (s : State) (c : CellIx) (f : Cell → Cell) : (s.modCell c f).directory = s.directory := rfl
@[simp] theorem State.modCell_classes (s : State) (c : CellIx) (f : Cell → Cell) : (s.modCell c f).classes = s.classes := rfl
@[simp] theorem State.modCell_ports (s : State) (c : CellIx) (f : Cell → Cell) : (s.modCell c f).ports = s.ports := rfl
@[simp] theorem State.modCell_agingWeight (s : State) (c : CellIx) (f : Cell → Cell) : (s.modCell c f).agingWeight = s.agingWeight := rfl
@[simp] theorem State.modCell_supervision (s : State) (c : CellIx) (f : Cell → Cell) : (s.modCell c f).supervision = s.supervision := rfl
@[simp] theorem State.modCell_urgentLast (s : State) (c : CellIx) (f : Cell → Cell) : (s.modCell c f).urgentLast = s.urgentLast := rfl
@[simp] theorem State.modCell_normalLast (s : State) (c : CellIx) (f : Cell → Cell) : (s.modCell c f).normalLast = s.normalLast := rfl
@[simp] theorem State.modCell_job (s : State) (c : CellIx) (f : Cell → Cell) : (s.modCell c f).job = s.job := rfl
@[simp] theorem State.modCell_chosen (s : State) (c : CellIx) (f : Cell → Cell) : (s.modCell c f).chosen = s.chosen := rfl
@[simp] theorem State.modCell_eventRaw (s : State) (c : CellIx) (f : Cell → Cell) : (s.modCell c f).eventRaw = s.eventRaw := rfl
@[simp] theorem State.modCell_eventEnable (s : State) (c : CellIx) (f : Cell → Cell) : (s.modCell c f).eventEnable = s.eventEnable := rfl
@[simp] theorem State.modCell_interruptLine (s : State) (c : CellIx) (f : Cell → Cell) : (s.modCell c f).interruptLine = s.interruptLine := rfl
@[simp] theorem State.modCell_holding (s : State) (c : CellIx) (f : Cell → Cell) : (s.modCell c f).holding = s.holding := rfl
@[simp] theorem State.modCell_capture (s : State) (c : CellIx) (f : Cell → Cell) : (s.modCell c f).capture = s.capture := rfl
@[simp] theorem State.modCell_transaction (s : State) (c : CellIx) (f : Cell → Cell) : (s.modCell c f).transaction = s.transaction := rfl
@[simp] theorem State.modCell_dataOut (s : State) (c : CellIx) (f : Cell → Cell) : (s.modCell c f).dataOut = s.dataOut := rfl
@[simp] theorem State.modCell_freeDraws (s : State) (c : CellIx) (f : Cell → Cell) : (s.modCell c f).freeDraws = s.freeDraws := rfl
@[simp] theorem State.modCell_record (s : State) (c : CellIx) (f : Cell → Cell) (j : Nat) : (s.modCell c f).record j = s.record j := rfl
@[simp] theorem State.modCell_liveAt (s : State) (c : CellIx) (f : Cell → Cell) (j : Nat) : (s.modCell c f).liveAt j = s.liveAt j := rfl
@[simp] theorem State.modCell_handleOf (s : State) (c : CellIx) (f : Cell → Cell) (j : Nat) : (s.modCell c f).handleOf j = s.handleOf j := rfl
@[simp] theorem State.modCell_findKey (s : State) (c : CellIx) (f : Cell → Cell) (l : Key) : (s.modCell c f).findKey l = s.findKey l := rfl
@[simp] theorem State.modCell_classAt (s : State) (c : CellIx) (f : Cell → Cell) (j : ClassIx) : (s.modCell c f).classAt j = s.classAt j := rfl
@[simp] theorem State.modCell_port (s : State) (c : CellIx) (f : Cell → Cell) (o : PortIx) : (s.modCell c f).port o = s.port o := rfl

/-! ### modClass -/

@[simp] theorem State.modClass_pending (s : State) (k : ClassIx) (f : ServiceClass → ServiceClass) : (s.modClass k f).pending = s.pending := rfl
@[simp] theorem State.modClass_tick (s : State) (k : ClassIx) (f : ServiceClass → ServiceClass) : (s.modClass k f).tick = s.tick := rfl
@[simp] theorem State.modClass_tableOpen (s : State) (k : ClassIx) (f : ServiceClass → ServiceClass) : (s.modClass k f).tableOpen = s.tableOpen := rfl
@[simp] theorem State.modClass_records (s : State) (k : ClassIx) (f : ServiceClass → ServiceClass) : (s.modClass k f).records = s.records := rfl
@[simp] theorem State.modClass_freeList (s : State) (k : ClassIx) (f : ServiceClass → ServiceClass) : (s.modClass k f).freeList = s.freeList := rfl
@[simp] theorem State.modClass_directory (s : State) (k : ClassIx) (f : ServiceClass → ServiceClass) : (s.modClass k f).directory = s.directory := rfl
@[simp] theorem State.modClass_cells (s : State) (k : ClassIx) (f : ServiceClass → ServiceClass) : (s.modClass k f).cells = s.cells := rfl
@[simp] theorem State.modClass_ports (s : State) (k : ClassIx) (f : ServiceClass → ServiceClass) : (s.modClass k f).ports = s.ports := rfl
@[simp] theorem State.modClass_agingWeight (s : State) (k : ClassIx) (f : ServiceClass → ServiceClass) : (s.modClass k f).agingWeight = s.agingWeight := rfl
@[simp] theorem State.modClass_supervision (s : State) (k : ClassIx) (f : ServiceClass → ServiceClass) : (s.modClass k f).supervision = s.supervision := rfl
@[simp] theorem State.modClass_urgentLast (s : State) (k : ClassIx) (f : ServiceClass → ServiceClass) : (s.modClass k f).urgentLast = s.urgentLast := rfl
@[simp] theorem State.modClass_normalLast (s : State) (k : ClassIx) (f : ServiceClass → ServiceClass) : (s.modClass k f).normalLast = s.normalLast := rfl
@[simp] theorem State.modClass_job (s : State) (k : ClassIx) (f : ServiceClass → ServiceClass) : (s.modClass k f).job = s.job := rfl
@[simp] theorem State.modClass_chosen (s : State) (k : ClassIx) (f : ServiceClass → ServiceClass) : (s.modClass k f).chosen = s.chosen := rfl
@[simp] theorem State.modClass_eventRaw (s : State) (k : ClassIx) (f : ServiceClass → ServiceClass) : (s.modClass k f).eventRaw = s.eventRaw := rfl
@[simp] theorem State.modClass_eventEnable (s : State) (k : ClassIx) (f : ServiceClass → ServiceClass) : (s.modClass k f).eventEnable = s.eventEnable := rfl
@[simp] theorem State.modClass_interruptLine (s : State) (k : ClassIx) (f : ServiceClass → ServiceClass) : (s.modClass k f).interruptLine = s.interruptLine := rfl
@[simp] theorem State.modClass_holding (s : State) (k : ClassIx) (f : ServiceClass → ServiceClass) : (s.modClass k f).holding = s.holding := rfl
@[simp] theorem State.modClass_capture (s : State) (k : ClassIx) (f : ServiceClass → ServiceClass) : (s.modClass k f).capture = s.capture := rfl
@[simp] theorem State.modClass_transaction (s : State) (k : ClassIx) (f : ServiceClass → ServiceClass) : (s.modClass k f).transaction = s.transaction := rfl
@[simp] theorem State.modClass_dataOut (s : State) (k : ClassIx) (f : ServiceClass → ServiceClass) : (s.modClass k f).dataOut = s.dataOut := rfl
@[simp] theorem State.modClass_freeDraws (s : State) (k : ClassIx) (f : ServiceClass → ServiceClass) : (s.modClass k f).freeDraws = s.freeDraws := rfl
@[simp] theorem State.modClass_record (s : State) (k : ClassIx) (f : ServiceClass → ServiceClass) (j : Nat) : (s.modClass k f).record j = s.record j := rfl
@[simp] theorem State.modClass_liveAt (s : State) (k : ClassIx) (f : ServiceClass → ServiceClass) (j : Nat) : (s.modClass k f).liveAt j = s.liveAt j := rfl
@[simp] theorem State.modClass_handleOf (s : State) (k : ClassIx) (f : ServiceClass → ServiceClass) (j : Nat) : (s.modClass k f).handleOf j = s.handleOf j := rfl
@[simp] theorem State.modClass_findKey (s : State) (k : ClassIx) (f : ServiceClass → ServiceClass) (l : Key) : (s.modClass k f).findKey l = s.findKey l := rfl
@[simp] theorem State.modClass_cell (s : State) (k : ClassIx) (f : ServiceClass → ServiceClass) (d : CellIx) : (s.modClass k f).cell d = s.cell d := rfl
@[simp] theorem State.modClass_port (s : State) (k : ClassIx) (f : ServiceClass → ServiceClass) (o : PortIx) : (s.modClass k f).port o = s.port o := rfl

/-! ### modPort -/

@[simp] theorem State.modPort_pending (s : State) (p : PortIx) (f : Port → Port) : (s.modPort p f).pending = s.pending := rfl
@[simp] theorem State.modPort_tick (s : State) (p : PortIx) (f : Port → Port) : (s.modPort p f).tick = s.tick := rfl
@[simp] theorem State.modPort_tableOpen (s : State) (p : PortIx) (f : Port → Port) : (s.modPort p f).tableOpen = s.tableOpen := rfl
@[simp] theorem State.modPort_records (s : State) (p : PortIx) (f : Port → Port) : (s.modPort p f).records = s.records := rfl
@[simp] theorem State.modPort_freeList (s : State) (p : PortIx) (f : Port → Port) : (s.modPort p f).freeList = s.freeList := rfl
@[simp] theorem State.modPort_directory (s : State) (p : PortIx) (f : Port → Port) : (s.modPort p f).directory = s.directory := rfl
@[simp] theorem State.modPort_cells (s : State) (p : PortIx) (f : Port → Port) : (s.modPort p f).cells = s.cells := rfl
@[simp] theorem State.modPort_classes (s : State) (p : PortIx) (f : Port → Port) : (s.modPort p f).classes = s.classes := rfl
@[simp] theorem State.modPort_agingWeight (s : State) (p : PortIx) (f : Port → Port) : (s.modPort p f).agingWeight = s.agingWeight := rfl
@[simp] theorem State.modPort_supervision (s : State) (p : PortIx) (f : Port → Port) : (s.modPort p f).supervision = s.supervision := rfl
@[simp] theorem State.modPort_urgentLast (s : State) (p : PortIx) (f : Port → Port) : (s.modPort p f).urgentLast = s.urgentLast := rfl
@[simp] theorem State.modPort_normalLast (s : State) (p : PortIx) (f : Port → Port) : (s.modPort p f).normalLast = s.normalLast := rfl
@[simp] theorem State.modPort_job (s : State) (p : PortIx) (f : Port → Port) : (s.modPort p f).job = s.job := rfl
@[simp] theorem State.modPort_chosen (s : State) (p : PortIx) (f : Port → Port) : (s.modPort p f).chosen = s.chosen := rfl
@[simp] theorem State.modPort_eventRaw (s : State) (p : PortIx) (f : Port → Port) : (s.modPort p f).eventRaw = s.eventRaw := rfl
@[simp] theorem State.modPort_eventEnable (s : State) (p : PortIx) (f : Port → Port) : (s.modPort p f).eventEnable = s.eventEnable := rfl
@[simp] theorem State.modPort_interruptLine (s : State) (p : PortIx) (f : Port → Port) : (s.modPort p f).interruptLine = s.interruptLine := rfl
@[simp] theorem State.modPort_holding (s : State) (p : PortIx) (f : Port → Port) : (s.modPort p f).holding = s.holding := rfl
@[simp] theorem State.modPort_capture (s : State) (p : PortIx) (f : Port → Port) : (s.modPort p f).capture = s.capture := rfl
@[simp] theorem State.modPort_transaction (s : State) (p : PortIx) (f : Port → Port) : (s.modPort p f).transaction = s.transaction := rfl
@[simp] theorem State.modPort_dataOut (s : State) (p : PortIx) (f : Port → Port) : (s.modPort p f).dataOut = s.dataOut := rfl
@[simp] theorem State.modPort_freeDraws (s : State) (p : PortIx) (f : Port → Port) : (s.modPort p f).freeDraws = s.freeDraws := rfl
@[simp] theorem State.modPort_record (s : State) (p : PortIx) (f : Port → Port) (j : Nat) : (s.modPort p f).record j = s.record j := rfl
@[simp] theorem State.modPort_liveAt (s : State) (p : PortIx) (f : Port → Port) (j : Nat) : (s.modPort p f).liveAt j = s.liveAt j := rfl
@[simp] theorem State.modPort_handleOf (s : State) (p : PortIx) (f : Port → Port) (j : Nat) : (s.modPort p f).handleOf j = s.handleOf j := rfl
@[simp] theorem State.modPort_findKey (s : State) (p : PortIx) (f : Port → Port) (l : Key) : (s.modPort p f).findKey l = s.findKey l := rfl
@[simp] theorem State.modPort_cell (s : State) (p : PortIx) (f : Port → Port) (d : CellIx) : (s.modPort p f).cell d = s.cell d := rfl
@[simp] theorem State.modPort_classAt (s : State) (p : PortIx) (f : Port → Port) (j : ClassIx) : (s.modPort p f).classAt j = s.classAt j := rfl

/-! ### setEvents -/

@[simp] theorem State.setEvents_pending (s : State) (raw enable : BitVec 10) : (s.setEvents raw enable).pending = s.pending := rfl
@[simp] theorem State.setEvents_tick (s : State) (raw enable : BitVec 10) : (s.setEvents raw enable).tick = s.tick := rfl
@[simp] theorem State.setEvents_tableOpen (s : State) (raw enable : BitVec 10) : (s.setEvents raw enable).tableOpen = s.tableOpen := rfl
@[simp] theorem State.setEvents_records (s : State) (raw enable : BitVec 10) : (s.setEvents raw enable).records = s.records := rfl
@[simp] theorem State.setEvents_freeList (s : State) (raw enable : BitVec 10) : (s.setEvents raw enable).freeList = s.freeList := rfl
@[simp] theorem State.setEvents_directory (s : State) (raw enable : BitVec 10) : (s.setEvents raw enable).directory = s.directory := rfl
@[simp] theorem State.setEvents_cells (s : State) (raw enable : BitVec 10) : (s.setEvents raw enable).cells = s.cells := rfl
@[simp] theorem State.setEvents_classes (s : State) (raw enable : BitVec 10) : (s.setEvents raw enable).classes = s.classes := rfl
@[simp] theorem State.setEvents_ports (s : State) (raw enable : BitVec 10) : (s.setEvents raw enable).ports = s.ports := rfl
@[simp] theorem State.setEvents_agingWeight (s : State) (raw enable : BitVec 10) : (s.setEvents raw enable).agingWeight = s.agingWeight := rfl
@[simp] theorem State.setEvents_supervision (s : State) (raw enable : BitVec 10) : (s.setEvents raw enable).supervision = s.supervision := rfl
@[simp] theorem State.setEvents_urgentLast (s : State) (raw enable : BitVec 10) : (s.setEvents raw enable).urgentLast = s.urgentLast := rfl
@[simp] theorem State.setEvents_normalLast (s : State) (raw enable : BitVec 10) : (s.setEvents raw enable).normalLast = s.normalLast := rfl
@[simp] theorem State.setEvents_job (s : State) (raw enable : BitVec 10) : (s.setEvents raw enable).job = s.job := rfl
@[simp] theorem State.setEvents_chosen (s : State) (raw enable : BitVec 10) : (s.setEvents raw enable).chosen = s.chosen := rfl
@[simp] theorem State.setEvents_holding (s : State) (raw enable : BitVec 10) : (s.setEvents raw enable).holding = s.holding := rfl
@[simp] theorem State.setEvents_capture (s : State) (raw enable : BitVec 10) : (s.setEvents raw enable).capture = s.capture := rfl
@[simp] theorem State.setEvents_transaction (s : State) (raw enable : BitVec 10) : (s.setEvents raw enable).transaction = s.transaction := rfl
@[simp] theorem State.setEvents_dataOut (s : State) (raw enable : BitVec 10) : (s.setEvents raw enable).dataOut = s.dataOut := rfl
@[simp] theorem State.setEvents_freeDraws (s : State) (raw enable : BitVec 10) : (s.setEvents raw enable).freeDraws = s.freeDraws := rfl
@[simp] theorem State.setEvents_record (s : State) (raw enable : BitVec 10) (j : Nat) : (s.setEvents raw enable).record j = s.record j := rfl
@[simp] theorem State.setEvents_liveAt (s : State) (raw enable : BitVec 10) (j : Nat) : (s.setEvents raw enable).liveAt j = s.liveAt j := rfl
@[simp] theorem State.setEvents_handleOf (s : State) (raw enable : BitVec 10) (j : Nat) : (s.setEvents raw enable).handleOf j = s.handleOf j := rfl
@[simp] theorem State.setEvents_findKey (s : State) (raw enable : BitVec 10) (l : Key) : (s.setEvents raw enable).findKey l = s.findKey l := rfl
@[simp] theorem State.setEvents_cell (s : State) (raw enable : BitVec 10) (d : CellIx) : (s.setEvents raw enable).cell d = s.cell d := rfl
@[simp] theorem State.setEvents_classAt (s : State) (raw enable : BitVec 10) (j : ClassIx) : (s.setEvents raw enable).classAt j = s.classAt j := rfl
@[simp] theorem State.setEvents_port (s : State) (raw enable : BitVec 10) (o : PortIx) : (s.setEvents raw enable).port o = s.port o := rfl

/-! ### raiseEvent -/

@[simp] theorem State.raiseEvent_pending (s : State) (flag : BitVec 10) : (s.raiseEvent flag).pending = s.pending := rfl
@[simp] theorem State.raiseEvent_tick (s : State) (flag : BitVec 10) : (s.raiseEvent flag).tick = s.tick := rfl
@[simp] theorem State.raiseEvent_tableOpen (s : State) (flag : BitVec 10) : (s.raiseEvent flag).tableOpen = s.tableOpen := rfl
@[simp] theorem State.raiseEvent_records (s : State) (flag : BitVec 10) : (s.raiseEvent flag).records = s.records := rfl
@[simp] theorem State.raiseEvent_freeList (s : State) (flag : BitVec 10) : (s.raiseEvent flag).freeList = s.freeList := rfl
@[simp] theorem State.raiseEvent_directory (s : State) (flag : BitVec 10) : (s.raiseEvent flag).directory = s.directory := rfl
@[simp] theorem State.raiseEvent_cells (s : State) (flag : BitVec 10) : (s.raiseEvent flag).cells = s.cells := rfl
@[simp] theorem State.raiseEvent_classes (s : State) (flag : BitVec 10) : (s.raiseEvent flag).classes = s.classes := rfl
@[simp] theorem State.raiseEvent_ports (s : State) (flag : BitVec 10) : (s.raiseEvent flag).ports = s.ports := rfl
@[simp] theorem State.raiseEvent_agingWeight (s : State) (flag : BitVec 10) : (s.raiseEvent flag).agingWeight = s.agingWeight := rfl
@[simp] theorem State.raiseEvent_supervision (s : State) (flag : BitVec 10) : (s.raiseEvent flag).supervision = s.supervision := rfl
@[simp] theorem State.raiseEvent_urgentLast (s : State) (flag : BitVec 10) : (s.raiseEvent flag).urgentLast = s.urgentLast := rfl
@[simp] theorem State.raiseEvent_normalLast (s : State) (flag : BitVec 10) : (s.raiseEvent flag).normalLast = s.normalLast := rfl
@[simp] theorem State.raiseEvent_job (s : State) (flag : BitVec 10) : (s.raiseEvent flag).job = s.job := rfl
@[simp] theorem State.raiseEvent_chosen (s : State) (flag : BitVec 10) : (s.raiseEvent flag).chosen = s.chosen := rfl
@[simp] theorem State.raiseEvent_eventEnable (s : State) (flag : BitVec 10) : (s.raiseEvent flag).eventEnable = s.eventEnable := rfl
@[simp] theorem State.raiseEvent_holding (s : State) (flag : BitVec 10) : (s.raiseEvent flag).holding = s.holding := rfl
@[simp] theorem State.raiseEvent_capture (s : State) (flag : BitVec 10) : (s.raiseEvent flag).capture = s.capture := rfl
@[simp] theorem State.raiseEvent_transaction (s : State) (flag : BitVec 10) : (s.raiseEvent flag).transaction = s.transaction := rfl
@[simp] theorem State.raiseEvent_dataOut (s : State) (flag : BitVec 10) : (s.raiseEvent flag).dataOut = s.dataOut := rfl
@[simp] theorem State.raiseEvent_freeDraws (s : State) (flag : BitVec 10) : (s.raiseEvent flag).freeDraws = s.freeDraws := rfl
@[simp] theorem State.raiseEvent_record (s : State) (flag : BitVec 10) (j : Nat) : (s.raiseEvent flag).record j = s.record j := rfl
@[simp] theorem State.raiseEvent_liveAt (s : State) (flag : BitVec 10) (j : Nat) : (s.raiseEvent flag).liveAt j = s.liveAt j := rfl
@[simp] theorem State.raiseEvent_handleOf (s : State) (flag : BitVec 10) (j : Nat) : (s.raiseEvent flag).handleOf j = s.handleOf j := rfl
@[simp] theorem State.raiseEvent_findKey (s : State) (flag : BitVec 10) (l : Key) : (s.raiseEvent flag).findKey l = s.findKey l := rfl
@[simp] theorem State.raiseEvent_cell (s : State) (flag : BitVec 10) (d : CellIx) : (s.raiseEvent flag).cell d = s.cell d := rfl
@[simp] theorem State.raiseEvent_classAt (s : State) (flag : BitVec 10) (j : ClassIx) : (s.raiseEvent flag).classAt j = s.classAt j := rfl
@[simp] theorem State.raiseEvent_port (s : State) (flag : BitVec 10) (o : PortIx) : (s.raiseEvent flag).port o = s.port o := rfl

/-! ### advance -/

@[simp] theorem State.advance_pending (s : State) : (s.advance).pending = s.pending := rfl
@[simp] theorem State.advance_tick (s : State) : (s.advance).tick = s.tick := rfl
@[simp] theorem State.advance_tableOpen (s : State) : (s.advance).tableOpen = s.tableOpen := rfl
@[simp] theorem State.advance_records (s : State) : (s.advance).records = s.records := rfl
@[simp] theorem State.advance_freeList (s : State) : (s.advance).freeList = s.freeList := rfl
@[simp] theorem State.advance_directory (s : State) : (s.advance).directory = s.directory := rfl
@[simp] theorem State.advance_cells (s : State) : (s.advance).cells = s.cells := rfl
@[simp] theorem State.advance_classes (s : State) : (s.advance).classes = s.classes := rfl
@[simp] theorem State.advance_ports (s : State) : (s.advance).ports = s.ports := rfl
@[simp] theorem State.advance_agingWeight (s : State) : (s.advance).agingWeight = s.agingWeight := rfl
@[simp] theorem State.advance_supervision (s : State) : (s.advance).supervision = s.supervision := rfl
@[simp] theorem State.advance_urgentLast (s : State) : (s.advance).urgentLast = s.urgentLast := rfl
@[simp] theorem State.advance_normalLast (s : State) : (s.advance).normalLast = s.normalLast := rfl
@[simp] theorem State.advance_job (s : State) : (s.advance).job = s.job := rfl
@[simp] theorem State.advance_chosen (s : State) : (s.advance).chosen = s.chosen := rfl
@[simp] theorem State.advance_eventRaw (s : State) : (s.advance).eventRaw = s.eventRaw := rfl
@[simp] theorem State.advance_eventEnable (s : State) : (s.advance).eventEnable = s.eventEnable := rfl
@[simp] theorem State.advance_interruptLine (s : State) : (s.advance).interruptLine = s.interruptLine := rfl
@[simp] theorem State.advance_holding (s : State) : (s.advance).holding = s.holding := rfl
@[simp] theorem State.advance_capture (s : State) : (s.advance).capture = s.capture := rfl
@[simp] theorem State.advance_dataOut (s : State) : (s.advance).dataOut = s.dataOut := rfl
@[simp] theorem State.advance_freeDraws (s : State) : (s.advance).freeDraws = s.freeDraws := rfl
@[simp] theorem State.advance_record (s : State) (j : Nat) : (s.advance).record j = s.record j := rfl
@[simp] theorem State.advance_liveAt (s : State) (j : Nat) : (s.advance).liveAt j = s.liveAt j := rfl
@[simp] theorem State.advance_handleOf (s : State) (j : Nat) : (s.advance).handleOf j = s.handleOf j := rfl
@[simp] theorem State.advance_findKey (s : State) (l : Key) : (s.advance).findKey l = s.findKey l := rfl
@[simp] theorem State.advance_cell (s : State) (d : CellIx) : (s.advance).cell d = s.cell d := rfl
@[simp] theorem State.advance_classAt (s : State) (j : ClassIx) : (s.advance).classAt j = s.classAt j := rfl
@[simp] theorem State.advance_port (s : State) (o : PortIx) : (s.advance).port o = s.port o := rfl

/-! ### chooseJob -/

@[simp] theorem State.chooseJob_pending (s : State) : (s.chooseJob).pending = s.pending := rfl
@[simp] theorem State.chooseJob_tick (s : State) : (s.chooseJob).tick = s.tick := rfl
@[simp] theorem State.chooseJob_tableOpen (s : State) : (s.chooseJob).tableOpen = s.tableOpen := rfl
@[simp] theorem State.chooseJob_records (s : State) : (s.chooseJob).records = s.records := rfl
@[simp] theorem State.chooseJob_freeList (s : State) : (s.chooseJob).freeList = s.freeList := rfl
@[simp] theorem State.chooseJob_directory (s : State) : (s.chooseJob).directory = s.directory := rfl
@[simp] theorem State.chooseJob_cells (s : State) : (s.chooseJob).cells = s.cells := rfl
@[simp] theorem State.chooseJob_classes (s : State) : (s.chooseJob).classes = s.classes := rfl
@[simp] theorem State.chooseJob_ports (s : State) : (s.chooseJob).ports = s.ports := rfl
@[simp] theorem State.chooseJob_agingWeight (s : State) : (s.chooseJob).agingWeight = s.agingWeight := rfl
@[simp] theorem State.chooseJob_supervision (s : State) : (s.chooseJob).supervision = s.supervision := rfl
@[simp] theorem State.chooseJob_urgentLast (s : State) : (s.chooseJob).urgentLast = s.urgentLast := rfl
@[simp] theorem State.chooseJob_normalLast (s : State) : (s.chooseJob).normalLast = s.normalLast := rfl
@[simp] theorem State.chooseJob_job (s : State) : (s.chooseJob).job = s.job := rfl
@[simp] theorem State.chooseJob_eventRaw (s : State) : (s.chooseJob).eventRaw = s.eventRaw := rfl
@[simp] theorem State.chooseJob_eventEnable (s : State) : (s.chooseJob).eventEnable = s.eventEnable := rfl
@[simp] theorem State.chooseJob_interruptLine (s : State) : (s.chooseJob).interruptLine = s.interruptLine := rfl
@[simp] theorem State.chooseJob_holding (s : State) : (s.chooseJob).holding = s.holding := rfl
@[simp] theorem State.chooseJob_capture (s : State) : (s.chooseJob).capture = s.capture := rfl
@[simp] theorem State.chooseJob_transaction (s : State) : (s.chooseJob).transaction = s.transaction := rfl
@[simp] theorem State.chooseJob_dataOut (s : State) : (s.chooseJob).dataOut = s.dataOut := rfl
@[simp] theorem State.chooseJob_freeDraws (s : State) : (s.chooseJob).freeDraws = s.freeDraws := rfl
@[simp] theorem State.chooseJob_record (s : State) (j : Nat) : (s.chooseJob).record j = s.record j := rfl
@[simp] theorem State.chooseJob_liveAt (s : State) (j : Nat) : (s.chooseJob).liveAt j = s.liveAt j := rfl
@[simp] theorem State.chooseJob_handleOf (s : State) (j : Nat) : (s.chooseJob).handleOf j = s.handleOf j := rfl
@[simp] theorem State.chooseJob_findKey (s : State) (l : Key) : (s.chooseJob).findKey l = s.findKey l := rfl
@[simp] theorem State.chooseJob_cell (s : State) (d : CellIx) : (s.chooseJob).cell d = s.cell d := rfl
@[simp] theorem State.chooseJob_classAt (s : State) (j : ClassIx) : (s.chooseJob).classAt j = s.classAt j := rfl
@[simp] theorem State.chooseJob_port (s : State) (o : PortIx) : (s.chooseJob).port o = s.port o := rfl

/-! ### The event flags -/

@[simp] theorem State.setEvents_eventRaw (s : State) (raw enable : BitVec 10) : (s.setEvents raw enable).eventRaw = raw := rfl
@[simp] theorem State.setEvents_eventEnable (s : State) (raw enable : BitVec 10) : (s.setEvents raw enable).eventEnable = enable := rfl
@[simp] theorem State.setEvents_interruptLine (s : State) (raw enable : BitVec 10) :
    (s.setEvents raw enable).interruptLine = decide (raw &&& enable ≠ 0#10) := rfl
@[simp] theorem State.raiseEvent_eventRaw (s : State) (flag : BitVec 10) : (s.raiseEvent flag).eventRaw = s.eventRaw ||| flag := rfl
@[simp] theorem State.raiseEvent_interruptLine (s : State) (flag : BitVec 10) :
    (s.raiseEvent flag).interruptLine = decide ((s.eventRaw ||| flag) &&& s.eventEnable ≠ 0#10) := rfl

end Sys2Proof.Machine
end

