-- ==== Sys2Proof/Laws/Drains.lean ====
section
/-! SUPPORT. What the Drain Engine chooses and starts (R139, R140). -/

namespace Sys2Proof.Machine

/-- The lowest number whose flag is set is found first (R140). -/
theorem find_first_flag {n : Nat} (f : Fin n → Bool) (p : Fin n) (h : f p = true) (h2 : ∀ o, o < p → f o = false) : (List.finRange n).find? f = some p := by
  rw [List.find?_eq_some_iff_getElem]
  refine ⟨h, p.val, by simp, by simp, ?_⟩
  intro j hj
  simp
  exact h2 _ hj

/-- The pending port drain is that of lowest number (R140). -/
theorem State.pendingPort_eq_some {s : State} {p : PortIx} (h : (s.port p).drainFlag = true)
    (h2 : ∀ o : PortIx, o < p → (s.port o).drainFlag = false) : s.pendingPort = some p :=
  find_first_flag (fun o => (s.port o).drainFlag) p h h2

/-- No port drain is pending while no port's flag is set. -/
theorem State.pendingPort_eq_none {s : State} : s.pendingPort = none ↔ ∀ p, (s.port p).drainFlag = false := by
  unfold State.pendingPort; simp [List.find?_eq_none]

/-- The pending cell drain is that of lowest number (R140). -/
theorem State.pendingCell_eq_some {s : State} {c : CellIx} (h : (s.cell c).drainFlag = true)
    (h2 : ∀ d : CellIx, d < c → (s.cell d).drainFlag = false) : s.pendingCell = some c :=
  find_first_flag (fun d => (s.cell d).drainFlag) c h h2

/-- No cell drain is pending while no cell's flag is set. -/
theorem State.pendingCell_eq_none {s : State} : s.pendingCell = none ↔ ∀ c, (s.cell c).drainFlag = false := by
  unfold State.pendingCell; simp [List.find?_eq_none]

/-- The first pending drain is that of a set flag. -/
theorem State.firstPending_flag {s : State} {j : Job} (h : s.firstPending = some j) :
    (∃ p, j = .portDrain p ∧ (s.port p).drainFlag = true) ∨ ∃ c, j = .cellDrain c ∧ (s.cell c).drainFlag = true := by
  unfold State.firstPending at h
  split at h
  · next p hp => cases h; exact .inl ⟨p, rfl, List.find?_some (p := fun o => (s.port o).drainFlag) hp⟩
  · rw [Option.map_eq_some_iff] at h
    obtain ⟨c, hc, rfl⟩ := h
    exact .inr ⟨c, rfl, List.find?_some (p := fun d => (s.cell d).drainFlag) hc⟩

/-- No drain is pending exactly while no flag is set. -/
theorem State.firstPending_eq_none {s : State} :
    s.firstPending = none ↔ (∀ p, (s.port p).drainFlag = false) ∧ ∀ c, (s.cell c).drainFlag = false := by
  rw [← State.pendingPort_eq_none, ← State.pendingCell_eq_none]
  unfold State.firstPending
  cases s.pendingPort <;> simp

/-- What looking for a job does (R140). -/
theorem State.chooseJob_chooses {s x : State} (h : x.chosen = s.chosen) : Chooses s x.chooseJob := by
  unfold State.chooseJob State.nextJob
  rw [h]
  refine ⟨fun hj => if_neg hj, fun hj hc => ?_, fun hj hc => ⟨fun p hp ho => ?_, fun hp => ⟨fun c hc2 hd => ?_, fun hc2 => ?_⟩⟩⟩
  · show (if x.job = none then _ else none) = _
    rw [if_pos hj]
    cases hs : s.chosen with
    | none => exact absurd hs hc
    | some j => rfl
  all_goals
    show (if x.job = none then _ else none) = _
    rw [if_pos hj, hc, Option.none_or]
    unfold State.firstPending
  · rw [show x.pendingPort = some p from State.pendingPort_eq_some hp ho]
  · rw [show x.pendingPort = none from State.pendingPort_eq_none.2 hp,
      show x.pendingCell = some c from State.pendingCell_eq_some hc2 hd]; rfl
  · rw [show x.pendingPort = none from State.pendingPort_eq_none.2 hp,
      show x.pendingCell = none from State.pendingCell_eq_none.2 hc2]; rfl

end Sys2Proof.Machine
end

