-- ==== Sys2Proof/Laws/Ops.lean ====
section
/-! SUPPORT. What reads give after writes: sparse stores, records, the directory, cells, classes and ports; the canonical form. -/

namespace Sys2Proof.Machine

/-! ### Sparse stores -/

variable {α : Type}

@[simp] theorem sparseFind_insert_self (l : List (Nat × α)) (k : Nat) (v : α) : sparseFind (sparseInsert l k v) k = some v := by
  induction l with
  | nil => simp [sparseInsert, sparseFind]
  | cons a rest ih =>
    obtain ⟨j, w⟩ := a
    by_cases h1 : k < j
    · simp [sparseInsert, sparseFind, h1]
    · by_cases h2 : k = j
      · simp [sparseInsert, sparseFind, h2]
      · simp [sparseInsert, sparseFind, h1, h2, Ne.symm h2, ih]

theorem sparseFind_insert_ne (l : List (Nat × α)) (k j : Nat) (v : α) (h : j ≠ k) :
    sparseFind (sparseInsert l k v) j = sparseFind l j := by
  induction l with
  | nil => simp [sparseInsert, sparseFind, Ne.symm h]
  | cons a rest ih =>
    obtain ⟨m, w⟩ := a
    by_cases h1 : k < m
    · simp [sparseInsert, sparseFind, h1, Ne.symm h]
    · by_cases h2 : k = m
      · subst h2; simp [sparseInsert, sparseFind, Ne.symm h]
      · simp [sparseInsert, sparseFind, h1, h2, ih]

@[simp] theorem sparseFind_erase_self (l : List (Nat × α)) (k : Nat) : sparseFind (sparseErase l k) k = none := by
  induction l with
  | nil => rfl
  | cons a rest ih =>
    obtain ⟨j, w⟩ := a
    by_cases h : j = k
    · simpa [sparseErase, h] using ih
    · simpa [sparseErase, sparseFind, h] using ih

theorem sparseFind_erase_ne (l : List (Nat × α)) (k j : Nat) (h : j ≠ k) : sparseFind (sparseErase l k) j = sparseFind l j := by
  induction l with
  | nil => rfl
  | cons a rest ih =>
    obtain ⟨m, w⟩ := a
    by_cases hm : m = k
    · subst hm; simpa [sparseErase, sparseFind, Ne.symm h] using ih
    · by_cases hj : m = j
      · simp [sparseErase, sparseFind, hj, h]
      · simpa [sparseErase, sparseFind, hm, hj] using ih

theorem sparseSorted_iff (l : List (Nat × α)) : sparseSorted l = true ↔ l.Pairwise fun a b => a.1 < b.1 := by
  induction l with
  | nil => simp [sparseSorted]
  | cons a rest ih =>
    cases rest with
    | nil => simp [sparseSorted]
    | cons b tail =>
      simp only [sparseSorted, Bool.and_eq_true, decide_eq_true_eq, ih, List.pairwise_cons, List.mem_cons, forall_eq_or_imp]
      constructor
      · rintro ⟨h1, h2, h3⟩
        exact ⟨⟨h1, fun x hx => lt_trans h1 (h2 x hx)⟩, h2, h3⟩
      · rintro ⟨⟨h1, -⟩, h2, h3⟩
        exact ⟨h1, h2, h3⟩

theorem mem_sparseInsert {l : List (Nat × α)} {k : Nat} {v : α} {e : Nat × α} (h : e ∈ sparseInsert l k v) :
    e = (k, v) ∨ e ∈ l := by
  induction l with
  | nil => simpa [sparseInsert] using h
  | cons a rest ih =>
    obtain ⟨j, w⟩ := a
    simp only [sparseInsert] at h
    split at h
    · simpa using h
    · split at h
      · rcases List.mem_cons.1 h with h | h
        · exact .inl h
        · exact .inr (List.mem_cons_of_mem _ h)
      · rcases List.mem_cons.1 h with h | h
        · exact .inr (h ▸ List.mem_cons_self)
        · rcases ih h with h | h
          · exact .inl h
          · exact .inr (List.mem_cons_of_mem _ h)

theorem sparseSorted_insert (l : List (Nat × α)) (k : Nat) (v : α) (h : sparseSorted l = true) :
    sparseSorted (sparseInsert l k v) = true := by
  rw [sparseSorted_iff] at *
  induction l with
  | nil => simp [sparseInsert]
  | cons a rest ih =>
    obtain ⟨j, w⟩ := a
    obtain ⟨h1, h2⟩ := List.pairwise_cons.1 h
    simp only [sparseInsert]
    split
    · rename_i hk
      refine List.pairwise_cons.2 ⟨?_, h⟩
      intro x hx
      rcases List.mem_cons.1 hx with rfl | hx
      · exact hk
      · exact lt_trans hk (h1 x hx)
    · split
      · rename_i hk
        subst hk
        exact List.pairwise_cons.2 ⟨h1, h2⟩
      · refine List.pairwise_cons.2 ⟨?_, ih h2⟩
        intro x hx
        rcases mem_sparseInsert hx with rfl | hx
        · simp; omega
        · exact h1 x hx

theorem sparseSorted_erase (l : List (Nat × α)) (k : Nat) (h : sparseSorted l = true) : sparseSorted (sparseErase l k) = true := by
  rw [sparseSorted_iff] at *
  exact h.filter _

/-! ### Records -/

@[simp] theorem State.record_setRecord_self (s : State) (i : Nat) (r : Record) : (s.setRecord i r).record i = r := by
  unfold State.setRecord State.record
  by_cases h : r = Record.fresh <;> simp [h]

theorem State.record_setRecord_ne (s : State) (i j : Nat) (r : Record) (h : j ≠ i) : (s.setRecord i r).record j = s.record j := by
  unfold State.setRecord State.record
  by_cases hr : r = Record.fresh
  · simp [hr, sparseFind_erase_ne _ _ _ h]
  · simp [hr, sparseFind_insert_ne _ _ _ _ h]

theorem State.record_setRecord (s : State) (i j : Nat) (r : Record) :
    (s.setRecord i r).record j = if j = i then r else s.record j := by
  by_cases h : j = i
  · subst h; simp
  · simp [h, State.record_setRecord_ne]

theorem State.record_setLive (s : State) (i j : Nat) (ses : Session) (st : Stage) :
    (s.setLive i ses st).record j = if j = i then { s.record i with life := .live ses st } else s.record j :=
  State.record_setRecord ..

theorem State.record_setPending (s : State) (i j : Nat) (n : Option PendingNotice) :
    (s.setPending i n).record j = if j = i then { s.record i with pending := n } else s.record j :=
  State.record_setRecord ..

theorem State.liveAt_setLive (s : State) (i j : Nat) (ses : Session) (st : Stage) :
    (s.setLive i ses st).liveAt j = if j = i then some (ses, st) else s.liveAt j := by
  unfold State.liveAt
  rw [State.record_setLive]
  by_cases h : j = i <;> simp [h]

theorem State.liveAt_setPending (s : State) (i j : Nat) (n : Option PendingNotice) : (s.setPending i n).liveAt j = s.liveAt j := by
  unfold State.liveAt
  rw [State.record_setPending]
  by_cases h : j = i <;> simp [h]

theorem State.generation_setLive (s : State) (i j : Nat) (ses : Session) (st : Stage) :
    ((s.setLive i ses st).record j).generation = (s.record j).generation := by
  rw [State.record_setLive]
  by_cases h : j = i <;> simp [h]

theorem State.generation_setPending (s : State) (i j : Nat) (n : Option PendingNotice) :
    ((s.setPending i n).record j).generation = (s.record j).generation := by
  rw [State.record_setPending]
  by_cases h : j = i <;> simp [h]

theorem State.liveAt_eq_some {s : State} {i : Nat} {ses : Session} {st : Stage} :
    s.liveAt i = some (ses, st) ↔ (s.record i).life = .live ses st := by
  unfold State.liveAt
  cases (s.record i).life <;> simp

/-- Storing a record keeps the canonical form of the stores. -/
theorem State.storeCanonical_setRecord (s : State) (i : Nat) (r : Record) (h : s.storeCanonical = true) :
    (s.setRecord i r).storeCanonical = true := by
  simp only [State.storeCanonical, Bool.and_eq_true, List.all_eq_true, decide_eq_true_eq] at *
  obtain ⟨⟨h1, h2⟩, h3⟩ := h
  refine ⟨⟨?_, ?_⟩, h3⟩
  · unfold State.setRecord
    by_cases hr : r = Record.fresh
    · simpa [hr] using sparseSorted_erase _ _ h1
    · simpa [hr] using sparseSorted_insert _ _ _ h1
  · intro e he
    unfold State.setRecord at he
    by_cases hr : r = Record.fresh
    · simp only [hr, if_true] at he
      exact h2 e (List.mem_filter.1 he).1
    · simp only [hr, if_false] at he
      rcases mem_sparseInsert he with rfl | he
      · exact hr
      · exact h2 e he

/-! ### The directory -/

/-- Different keys have different codes. -/
theorem Key.code_injective {k l : Key} (h : k.code = l.code) : k = l := by
  obtain ⟨c1, t1, b1⟩ := k
  obtain ⟨c2, t2, b2⟩ := l
  simp only [Key.code] at h
  have hb1 := b1.isLt
  have hb2 := b2.isLt
  have ht1 : t1.toNat < 4294967296 := t1.isLt
  have ht2 : t2.toNat < 4294967296 := t2.isLt
  have hb : b1.val = b2.val := by omega
  have ht : t1.toNat = t2.toNat := by omega
  have hc : c1.val = c2.val := by omega
  simp [Fin.ext_iff, hb, hc, BitVec.eq_of_toNat_eq ht]

@[simp] theorem State.findKey_addKey_self (s : State) (k : Key) (h : Handle) : (s.addKey k h).findKey k = some h := by
  simp [State.findKey, State.addKey]

theorem State.findKey_addKey_ne (s : State) (k l : Key) (h : Handle) (hne : l ≠ k) : (s.addKey k h).findKey l = s.findKey l := by
  simp only [State.findKey, State.addKey]
  exact sparseFind_insert_ne _ _ _ _ fun hc => hne (Key.code_injective hc)

@[simp] theorem State.findKey_dropKey_self (s : State) (k : Key) : (s.dropKey k).findKey k = none := by
  simp [State.findKey, State.dropKey]

theorem State.findKey_dropKey_ne (s : State) (k l : Key) (hne : l ≠ k) : (s.dropKey k).findKey l = s.findKey l := by
  simp only [State.findKey, State.dropKey]
  exact sparseFind_erase_ne _ _ _ fun hc => hne (Key.code_injective hc)

theorem State.storeCanonical_addKey (s : State) (k : Key) (h : Handle) (hs : s.storeCanonical = true) :
    (s.addKey k h).storeCanonical = true := by
  simp only [State.storeCanonical, Bool.and_eq_true] at *
  exact ⟨hs.1, sparseSorted_insert _ _ _ hs.2⟩

theorem State.storeCanonical_dropKey (s : State) (k : Key) (hs : s.storeCanonical = true) :
    (s.dropKey k).storeCanonical = true := by
  simp only [State.storeCanonical, Bool.and_eq_true] at *
  exact ⟨hs.1, sparseSorted_erase _ _ hs.2⟩

/-! ### Cells, classes, ports -/

@[simp] theorem State.cell_modCell_self (s : State) (c : CellIx) (f : Cell → Cell) : (s.modCell c f).cell c = f (s.cell c) := by
  simp [State.cell, State.modCell]

theorem State.cell_modCell_ne (s : State) (c d : CellIx) (f : Cell → Cell) (h : d ≠ c) : (s.modCell c f).cell d = s.cell d := by
  have hv : ¬ c.val = d.val := fun hv => h (Fin.ext hv.symm)
  simp [State.cell, State.modCell, hv]

theorem State.cell_modCell (s : State) (c d : CellIx) (f : Cell → Cell) :
    (s.modCell c f).cell d = if d = c then f (s.cell c) else s.cell d := by
  by_cases h : d = c
  · subst h; simp
  · simp [h, State.cell_modCell_ne]

@[simp] theorem State.classAt_modClass_self (s : State) (k : ClassIx) (f : ServiceClass → ServiceClass) :
    (s.modClass k f).classAt k = f (s.classAt k) := by
  simp [State.classAt, State.modClass]

theorem State.classAt_modClass_ne (s : State) (k j : ClassIx) (f : ServiceClass → ServiceClass) (h : j ≠ k) :
    (s.modClass k f).classAt j = s.classAt j := by
  have hv : ¬ k.val = j.val := fun hv => h (Fin.ext hv.symm)
  simp [State.classAt, State.modClass, hv]

@[simp] theorem State.port_modPort_self (s : State) (p : PortIx) (f : Port → Port) : (s.modPort p f).port p = f (s.port p) := by
  simp [State.port, State.modPort]

theorem State.port_modPort_ne (s : State) (p o : PortIx) (f : Port → Port) (h : o ≠ p) : (s.modPort p f).port o = s.port o := by
  have hv : ¬ p.val = o.val := fun hv => h (Fin.ext hv.symm)
  simp [State.port, State.modPort, hv]

theorem State.port_modPort (s : State) (p o : PortIx) (f : Port → Port) :
    (s.modPort p f).port o = if o = p then f (s.port p) else s.port o := by
  by_cases h : o = p
  · subst h; simp
  · simp [h, State.port_modPort_ne]

@[simp] theorem State.port_reset (p : PortIx) : State.reset.port p = Port.reset := by
  simp [State.port, State.reset]

@[simp] theorem State.cell_reset (c : CellIx) : State.reset.cell c = Cell.reset := by
  simp [State.cell, State.reset]

@[simp] theorem State.classAt_reset (k : ClassIx) : State.reset.classAt k = ServiceClass.reset := by
  simp [State.classAt, State.reset]

@[simp] theorem State.record_reset (i : Nat) : State.reset.record i = Record.fresh := rfl

/-- The index of a record that is not FREE is listed (R1). -/
theorem State.mem_keys {s : State} {i : Nat} (h : (s.record i).life ≠ .free) : i ∈ s.records.map Prod.fst := by
  by_contra hn
  apply h
  have : sparseFind s.records i = none := by
    generalize s.records = l at hn
    induction l with
    | nil => rfl
    | cons a rest ih => obtain ⟨j, v⟩ := a; simp at hn; unfold sparseFind; rw [if_neg (fun h => hn.1 h.symm)]; exact ih (by simpa using hn.2)
  unfold State.record; rw [this]; rfl

end Sys2Proof.Machine
end

