-- ==== Sys2Proof/Laws/Still.lean ====
section
/-! SUPPORT. The shared operations are still: they leave the background, every cell's settings, every port's side, the raw event flags and the interrupt line alone. Taking a record is quiet: it may raise RESERVE. -/

namespace Sys2Proof.Machine

theorem Quiet.refl (s : State) : Quiet s s := ⟨rfl, fun _ => rfl, fun _ => rfl⟩

theorem Quiet.trans {s t u : State} (h1 : Quiet s t) (h2 : Quiet t u) : Quiet s u :=
  ⟨h2.1.trans h1.1, fun c => (h2.2.1 c).trans (h1.2.1 c), fun p => (h2.2.2 p).trans (h1.2.2 p)⟩

/-- Fields of the background, read off a quiet change. -/
theorem Quiet.tick {s t : State} (h : Quiet s t) : t.tick = s.tick := congrArg Background.tick h.1
theorem Quiet.pending {s t : State} (h : Quiet s t) : t.pending = s.pending := congrArg Background.pending h.1
theorem Quiet.tableOpen {s t : State} (h : Quiet s t) : t.tableOpen = s.tableOpen := congrArg Background.tableOpen h.1
theorem Quiet.classes {s t : State} (h : Quiet s t) : t.classes = s.classes := congrArg Background.classes h.1
theorem Quiet.agingWeight {s t : State} (h : Quiet s t) : t.agingWeight = s.agingWeight := congrArg Background.agingWeight h.1
theorem Quiet.eventEnable {s t : State} (h : Quiet s t) : t.eventEnable = s.eventEnable := congrArg Background.eventEnable h.1
theorem Quiet.job {s t : State} (h : Quiet s t) : t.job = s.job := congrArg Background.job h.1
theorem Quiet.cellState {s t : State} (h : Quiet s t) (c : CellIx) : (t.cell c).state = (s.cell c).state :=
  congrArg CellSettings.state (h.2.1 c)
theorem Quiet.cellOwner {s t : State} (h : Quiet s t) (c : CellIx) : (t.cell c).owner = (s.cell c).owner :=
  congrArg CellSettings.owner (h.2.1 c)
theorem Quiet.portState {s t : State} (h : Quiet s t) (p : PortIx) : (t.port p).state = (s.port p).state :=
  congrArg PortSide.state (h.2.2 p)
theorem Quiet.transmit {s t : State} (h : Quiet s t) (p : PortIx) : (t.port p).transmit = (s.port p).transmit :=
  congrArg PortSide.transmit (h.2.2 p)

theorem Still.refl (s : State) : Still s s := ⟨Quiet.refl s, rfl, rfl⟩

theorem Still.trans {s t u : State} (h1 : Still s t) (h2 : Still t u) : Still s u :=
  ⟨h1.1.trans h2.1, h2.2.1.trans h1.2.1, h2.2.2.trans h1.2.2⟩

theorem Still.quiet {s t : State} (h : Still s t) : Quiet s t := h.1

/-! ### Basic updates -/

theorem still_setRecord (s : State) (i : Nat) (r : Record) : Still s (s.setRecord i r) := ⟨⟨rfl, fun _ => rfl, fun _ => rfl⟩, rfl, rfl⟩
theorem still_setLive (s : State) (i : Nat) (ses : Session) (st : Stage) : Still s (s.setLive i ses st) := still_setRecord ..
theorem still_setPending (s : State) (i : Nat) (n : Option PendingNotice) : Still s (s.setPending i n) := still_setRecord ..
theorem still_giveBack (s : State) (i : Nat) : Still s (s.giveBack i) := ⟨⟨rfl, fun _ => rfl, fun _ => rfl⟩, rfl, rfl⟩
theorem still_addKey (s : State) (k : Key) (h : Handle) : Still s (s.addKey k h) := ⟨⟨rfl, fun _ => rfl, fun _ => rfl⟩, rfl, rfl⟩
theorem still_dropKey (s : State) (k : Key) : Still s (s.dropKey k) := ⟨⟨rfl, fun _ => rfl, fun _ => rfl⟩, rfl, rfl⟩

theorem still_modCell (s : State) (c : CellIx) (f : Cell → Cell) (hf : ∀ k, (f k).settings = k.settings) :
    Still s (s.modCell c f) := by
  refine ⟨⟨rfl, fun d => ?_, fun _ => rfl⟩, rfl, rfl⟩
  rw [State.cell_modCell]
  split
  · next h => subst h; exact hf _
  · rfl

theorem still_modPort (s : State) (p : PortIx) (f : Port → Port) (hf : ∀ q, (f q).side = q.side) : Still s (s.modPort p f) := by
  refine ⟨⟨rfl, fun _ => rfl, fun o => ?_⟩, rfl, rfl⟩
  rw [State.port_modPort]
  split
  · next h => subst h; exact hf _
  · rfl

/-! ### Notices -/

@[simp] theorem Port.followRing_side (q : Port) (now : Tick) (n : Nat) : (q.followRing now n).side = q.side := by
  unfold Port.followRing
  split
  · split
    · split <;> rfl
    · rfl
  · rfl

@[simp] theorem Port.pushRing_side (q : Port) (now : Tick) (n : Notice) : (q.pushRing now n).side = q.side := by
  unfold Port.pushRing
  rw [Port.followRing_side]
  rfl

theorem still_raiseSession (s : State) (i : Nat) (kind : SessionNotice) (cause : Cause) : Still s (s.raiseSession i kind cause) := by
  unfold State.raiseSession State.backlogSession
  split
  · dsimp only
    split
    · exact Still.refl s
    · split
      · exact still_modPort _ _ _ (by intro q; simp)
      · split
        · exact still_setPending ..
        · exact (still_setPending ..).trans (still_modPort _ _ _ (by intro q; rfl))
  · exact Still.refl s

theorem still_raiseLevel (s : State) (c : CellIx) : Still s (s.raiseLevel c) := by
  unfold State.raiseLevel
  dsimp only
  split
  · exact Still.refl s
  · split
    · exact still_modPort _ _ _ (by intro q; simp)
    · split
      · exact Still.refl s
      · exact (still_modCell s c _ (by intro k; rfl)).trans (still_modPort _ _ _ (by intro q; rfl))

theorem still_dropPending (s : State) (i : Nat) : Still s (s.dropPending i) := by
  unfold State.dropPending
  split
  · exact (still_setRecord ..).trans (still_giveBack ..)
  · exact still_setPending ..

theorem still_dropEntry (s : State) (e : BacklogEntry) : Still s (s.dropEntry e) := by
  cases e with
  | record i => exact still_dropPending s i
  | cell c => exact still_modCell s c _ (by intro k; rfl)

theorem still_refillRing (p : PortIx) (fuel : Nat) (s : State) : Still s (s.refillRing p fuel) := by
  induction fuel generalizing s with
  | zero => exact Still.refl s
  | succ n ih =>
    unfold State.refillRing
    split
    · exact Still.refl s
    · split
      · exact ((still_modPort _ _ _ (by intro q; rfl)).trans (still_dropEntry ..)).trans (ih _)
      · exact Still.refl s

theorem still_fetchNotices (s : State) (p : PortIx) (k : Nat) : Still s (s.fetchNotices p k).2 := by
  unfold State.fetchNotices
  dsimp only
  exact ((still_modPort _ _ _ (by intro q; rfl)).trans (still_refillRing ..)).trans (still_modPort _ _ _ (by intro q; simp))

theorem still_dropEntries (es : List BacklogEntry) (s : State) : Still s (s.dropEntries es) := by
  unfold State.dropEntries
  induction es generalizing s with
  | nil => exact Still.refl s
  | cons e rest ih => exact (still_dropEntry s e).trans (ih _)

theorem still_clearNotices (s : State) (p : PortIx) : Still s (s.clearNotices p) :=
  (still_dropEntries ..).trans (still_modPort _ _ _ (by intro q; rfl))

/-! ### Levels -/

theorem still_recompute (s : State) (c : CellIx) : Still s (s.recompute c) := by
  unfold State.recompute
  have h : Still s (s.modCell c Cell.recomputed) := still_modCell _ _ _ (by intro k; rfl)
  dsimp only
  split
  · exact h
  · exact h.trans (still_raiseLevel ..)

/-! ### Admission -/

theorem still_leaveRank (s : State) (c : CellIx) (i : Nat) : Still s (s.leaveRank c i) := still_modCell _ _ _ (by intro k; rfl)
theorem still_leaveQueue (s : State) (c : CellIx) (i : Nat) : Still s (s.leaveQueue c i) := still_modCell _ _ _ (by intro k; rfl)
theorem still_addA (s : State) (c : CellIx) (d : Nat) : Still s (s.addA c d) := still_modCell _ _ _ (by intro k; rfl)
theorem still_subA (s : State) (c : CellIx) (d : Nat) : Still s (s.subA c d) := still_modCell _ _ _ (by intro k; rfl)
theorem still_addC (s : State) (c : CellIx) (d : Nat) : Still s (s.addC c d) := still_modCell _ _ _ (by intro k; rfl)
theorem still_subC (s : State) (c : CellIx) (d : Nat) : Still s (s.subC c d) := still_modCell _ _ _ (by intro k; rfl)
theorem still_addR (s : State) (c : CellIx) (d : Nat) : Still s (s.addR c d) := still_modCell _ _ _ (by intro k; rfl)
theorem still_subR (s : State) (c : CellIx) (d : Nat) : Still s (s.subR c d) := still_modCell _ _ _ (by intro k; rfl)

theorem still_joinRank (s : State) (c : CellIx) (i : Nat) (ses : Session) : Still s (s.joinRank c i ses) := by
  unfold State.joinRank
  split
  · exact still_modCell _ _ _ (by intro k; rfl)
  · exact Still.refl s

theorem still_countSetup (s : State) (c : CellIx) (i : Nat) (ses : Session) : Still s (s.countSetup c i ses) :=
  (still_addA ..).trans (still_joinRank ..)

theorem still_takeVictim (h : Handle) (c : CellIx) (s : State) (i : Nat) : Still s (State.takeVictim h c s i) := by
  unfold State.takeVictim
  split
  · exact ((((still_leaveRank ..).trans (still_subA ..)).trans (still_addC ..)).trans (still_setLive ..)).trans
      (still_raiseSession ..)
  · exact Still.refl s

theorem still_takeVictims (h : Handle) (c : CellIx) (vs : List Nat) (s : State) : Still s (s.takeVictims h c vs) := by
  unfold State.takeVictims
  induction vs generalizing s with
  | nil => exact Still.refl s
  | cons i rest ih => exact (still_takeVictim h c s i).trans (ih _)

theorem still_unbind (s : State) (h : Handle) : Still s (s.unbind h) := by
  unfold State.unbind
  split
  · split
    · exact still_setLive ..
    · exact Still.refl s
  · exact Still.refl s

theorem still_unbindAll (vs : List Handle) (s : State) : Still s (s.unbindAll vs) := by
  unfold State.unbindAll
  induction vs generalizing s with
  | nil => exact Still.refl s
  | cons h rest ih => exact (still_unbind s h).trans (ih _)

theorem still_promote (s : State) (c : CellIx) (i : Nat) (ses : Session) (vs : List Handle) (need reserved : Nat) :
    Still s (s.promote c i ses vs need reserved) :=
  ((((still_subR ..).trans (still_unbindAll ..)).trans (still_setLive ..)).trans (still_countSetup ..)).trans
    (still_raiseSession ..)

theorem still_passUnits (s : State) (c : CellIx) (victim : Handle) (v : Nat) (b : Handle) : Still s (s.passUnits c victim v b) := by
  unfold State.passUnits
  split
  · split
    · dsimp only
      split
      · exact ((still_addR ..).trans (still_setLive ..)).trans (still_promote ..)
      · exact (still_addR ..).trans (still_setLive ..)
    · exact Still.refl s
  · exact Still.refl s

theorem still_victimExit (s : State) (i : Nat) (ses : Session) (b : Option Handle) : Still s (s.victimExit i ses b) := by
  unfold State.victimExit
  cases b with
  | none => exact (still_subC ..).trans (still_recompute ..)
  | some b => exact ((still_subC ..).trans (still_passUnits ..)).trans (still_recompute ..)

theorem still_withdrawHeld (s : State) (ses : Session) (vs : List Handle) (reserved collected : Nat) :
    Still s (s.withdrawHeld ses vs reserved collected) := by
  unfold State.withdrawHeld
  have h : Still s ((s.subR ses.key.cell (reserved + collected)).unbindAll vs) := (still_subR ..).trans (still_unbindAll ..)
  dsimp only
  split
  · exact h
  · exact h.trans (still_recompute ..)

/-! ### Queues and retirement -/

theorem still_retire (s : State) (i : Nat) : Still s (s.retire i) := by
  unfold State.retire
  split
  · rename_i ses st _
    have h : Still s (((s.dropKey ses.key).leaveRank ses.key.cell i).leaveQueue ses.key.cell i) :=
      ((still_dropKey ..).trans (still_leaveRank ..)).trans (still_leaveQueue ..)
    dsimp only
    split
    · exact h.trans (still_setRecord ..)
    · exact h.trans ((still_setRecord ..).trans (still_giveBack ..))
  · exact Still.refl s

theorem still_serveHead (s : State) (c : CellIx) (i : Nat) (ses : Session) : Still s (s.serveHead c i ses) :=
  ((((still_leaveQueue ..).trans (still_setLive ..)).trans (still_countSetup ..)).trans (still_raiseSession ..)).trans
    (still_recompute ..)

theorem still_holdHead (s : State) (c : CellIx) (i : Nat) (ses : Session) (vs : List Nat) : Still s (s.holdHead c i ses vs) :=
  ((((still_leaveQueue ..).trans (still_takeVictims ..)).trans (still_setLive ..)).trans (still_addR ..)).trans
    (still_recompute ..)

theorem still_tryHead {s t : State} {c : CellIx} {i : Nat} (h : s.tryHead c i = some t) : Still s t := by
  unfold State.tryHead at h
  split at h
  · split at h
    · cases h
    · split at h
      · cases h; exact still_serveHead ..
      · split at h
        · obtain ⟨vs, -, rfl⟩ := Option.map_eq_some_iff.1 h
          exact still_holdHead ..
        · cases h
  · cases h

theorem still_passSteps (c : CellIx) (fuel : Nat) (s : State) : Still s (s.passSteps c fuel) := by
  induction fuel generalizing s with
  | zero => exact Still.refl s
  | succ n ih =>
    unfold State.passSteps
    split
    · exact Still.refl s
    · split
      · next h => exact (still_tryHead h).trans (ih _)
      · exact Still.refl s

theorem still_servicePass (s : State) (c : CellIx) : Still s (s.servicePass c) := by
  unfold State.servicePass
  split
  · exact still_passSteps ..
  · exact Still.refl s

theorem still_serviceWhen (s : State) (b : Bool) (c : CellIx) : Still s (s.serviceWhen b c) := by
  unfold State.serviceWhen
  split
  · exact still_servicePass ..
  · exact Still.refl s

theorem still_displace (s : State) (i : Nat) : Still s (s.displace i) := (still_raiseSession ..).trans (still_retire ..)

theorem still_cutQueue (c : CellIx) (limit fuel : Nat) (s : State) : Still s (s.cutQueue c limit fuel) := by
  induction fuel generalizing s with
  | zero => exact Still.refl s
  | succ n ih =>
    unfold State.cutQueue
    split
    · exact Still.refl s
    · split
      · exact (still_displace ..).trans (ih _)
      · exact Still.refl s

/-! ### The Table Engine -/

theorem quiet_raiseEvent (s : State) (flag : BitVec 10) : Quiet s (s.raiseEvent flag) := ⟨rfl, fun _ => rfl, fun _ => rfl⟩


theorem quiet_takeRecord (s : State) (ses : Session) (st : Stage) : Quiet s (s.takeRecord ses st) := by
  unfold State.takeRecord
  split
  · exact Quiet.refl s
  · rename_i i rest _
    have h : Quiet s (({ s with freeList := rest } : State).setLive i ses st) :=
      Quiet.trans (t := { s with freeList := rest }) ⟨rfl, fun _ => rfl, fun _ => rfl⟩ (still_setLive ..).quiet
    dsimp only
    split
    · exact (h.trans (still_addKey ..).quiet).trans (quiet_raiseEvent ..)
    · exact h.trans (still_addKey ..).quiet

theorem quiet_admitPlain (s : State) (ses : Session) : Quiet s (s.admitPlain ses) :=
  ((quiet_takeRecord ..).trans (still_countSetup ..).quiet).trans (still_recompute ..).quiet

theorem quiet_admitHeld (s : State) (ses : Session) (vs : List Nat) : Quiet s (s.admitHeld ses vs) :=
  (((still_takeVictims ..).quiet.trans (quiet_takeRecord ..)).trans (still_addR ..).quiet).trans (still_recompute ..).quiet

theorem quiet_enqueue (s : State) (ses : Session) : Quiet s (s.enqueue ses) :=
  (quiet_takeRecord ..).trans (still_modCell _ _ _ (by intro k; rfl)).quiet

theorem still_giveUp (s : State) (i : Nat) (ses : Session) (st : Stage) : Still s (s.giveUp i ses st) := by
  cases st with
  | queued a v d => exact Still.refl s
  | held vs n h c => exact still_withdrawHeld ..
  | setup t d => exact (still_subA ..).trans (still_recompute ..)
  | active t => exact (still_subA ..).trans (still_recompute ..)
  | ceding t b d => exact still_victimExit ..

theorem still_changeDemand (s : State) (i : Nat) (ses : Session) (st : Stage) (d : Nat) : Still s (s.changeDemand i ses st d) := by
  unfold State.changeDemand
  dsimp only
  split
  · exact (((still_setLive ..).trans (still_subA ..)).trans (still_recompute ..)).trans (still_servicePass ..)
  · exact ((still_setLive ..).trans (still_addA ..)).trans (still_recompute ..)

theorem still_carryRecord (s : State) (i : Nat) (ses : Session) (st : Stage) (target : CellIx) :
    Still s (s.carryRecord i ses st target) :=
  ((((((((still_subA ..).trans (still_leaveRank ..)).trans (still_dropKey ..)).trans (still_setLive ..)).trans
    (still_addKey ..)).trans (still_countSetup ..)).trans (still_recompute ..)).trans (still_recompute ..)).trans
    (still_servicePass ..)

end Sys2Proof.Machine
end

