-- ==== Sys2Proof/Laws/Effects.lean ====
section
/-! SUPPORT. What the shared operations do change: notices, recomputes, retirement, taking a record. -/

namespace Sys2Proof.Machine

/-! ### Raising a LEVEL notice -/

@[simp] theorem State.raiseLevel_records (s : State) (c : CellIx) : (s.raiseLevel c).records = s.records := by
  unfold State.raiseLevel; dsimp only; split
  · rfl
  · split
    · rfl
    · split <;> rfl

@[simp] theorem State.raiseLevel_freeList (s : State) (c : CellIx) : (s.raiseLevel c).freeList = s.freeList := by
  unfold State.raiseLevel; dsimp only; split
  · rfl
  · split
    · rfl
    · split <;> rfl

@[simp] theorem State.raiseLevel_directory (s : State) (c : CellIx) : (s.raiseLevel c).directory = s.directory := by
  unfold State.raiseLevel; dsimp only; split
  · rfl
  · split
    · rfl
    · split <;> rfl

/-- A LEVEL notice changes no cell but, at most, the pending LEVEL entry of its own. -/
theorem State.raiseLevel_cell (s : State) (c d : CellIx) :
    (s.raiseLevel c).cell d = s.cell d ∨ (d = c ∧ (s.raiseLevel c).cell d = { s.cell d with pendingLevel := true }) := by
  unfold State.raiseLevel; dsimp only; split
  · exact .inl rfl
  · split
    · exact .inl rfl
    · split
      · exact .inl rfl
      · by_cases h : d = c
        · subst h; right; simp
        · left; simp [State.cell_modCell_ne _ _ _ _ h]

theorem State.raiseLevel_cell_ne (s : State) (c d : CellIx) (h : d ≠ c) : (s.raiseLevel c).cell d = s.cell d := by
  rcases s.raiseLevel_cell c d with h1 | ⟨h1, -⟩
  · exact h1
  · exact absurd h1 h

theorem State.raiseLevel_port_ne (s : State) (c : CellIx) (o : PortIx) (h : o ≠ (s.cell c).owner) :
    (s.raiseLevel c).port o = s.port o := by
  unfold State.raiseLevel; dsimp only; split
  · rfl
  · split
    · exact State.port_modPort_ne _ _ _ _ h
    · split
      · rfl
      · rw [State.port_modPort_ne _ _ _ _ h]; rfl

/-- With room in the ring and an empty backlog, a LEVEL notice is appended at the ring's tail (R152, case 2). -/
theorem State.raiseLevel_direct (s : State) (c : CellIx) (hs : (s.port (s.cell c).owner).state ≠ .draining)
    (hd : (s.port (s.cell c).owner).takesDirectly = true) :
    s.raiseLevel c = s.modPort (s.cell c).owner fun q => q.pushRing s.tick (.level c (s.cell c).level) := by
  simp [State.raiseLevel, hs, hd]

/-! ### The recompute -/

@[simp] theorem State.recompute_records (s : State) (c : CellIx) : (s.recompute c).records = s.records := by
  unfold State.recompute; dsimp only; split <;> simp

@[simp] theorem State.recompute_freeList (s : State) (c : CellIx) : (s.recompute c).freeList = s.freeList := by
  unfold State.recompute; dsimp only; split <;> simp

@[simp] theorem State.recompute_directory (s : State) (c : CellIx) : (s.recompute c).directory = s.directory := by
  unfold State.recompute; dsimp only; split <;> simp

@[simp] theorem State.recompute_record (s : State) (c : CellIx) (i : Nat) : (s.recompute c).record i = s.record i := by
  simp [State.record]

@[simp] theorem State.recompute_liveAt (s : State) (c : CellIx) (i : Nat) : (s.recompute c).liveAt i = s.liveAt i := by
  simp [State.liveAt]

@[simp] theorem State.recompute_findKey (s : State) (c : CellIx) (k : Key) : (s.recompute c).findKey k = s.findKey k := by
  simp [State.findKey]

/-- A recompute changes a cell's occupancy and level and, at most, its pending LEVEL entry. -/
theorem State.recompute_cell (s : State) (c : CellIx) :
    (s.recompute c).cell c = (s.cell c).recomputed
      ∨ (s.recompute c).cell c = { (s.cell c).recomputed with pendingLevel := true } := by
  unfold State.recompute; dsimp only; split
  · left; simp
  · rcases (s.modCell c Cell.recomputed).raiseLevel_cell c c with h | ⟨-, h⟩
    · left; rw [h]; simp
    · right; rw [h]; simp

theorem State.recompute_cell_ne (s : State) (c d : CellIx) (h : d ≠ c) : (s.recompute c).cell d = s.cell d := by
  unfold State.recompute; dsimp only; split
  · exact State.cell_modCell_ne _ _ _ _ h
  · rw [State.raiseLevel_cell_ne _ _ _ h, State.cell_modCell_ne _ _ _ _ h]

@[simp] theorem State.recompute_countA (s : State) (c : CellIx) : ((s.recompute c).cell c).countA = (s.cell c).countA := by
  rcases s.recompute_cell c with h | h <;> rw [h] <;> rfl

@[simp] theorem State.recompute_countC (s : State) (c : CellIx) : ((s.recompute c).cell c).countC = (s.cell c).countC := by
  rcases s.recompute_cell c with h | h <;> rw [h] <;> rfl

@[simp] theorem State.recompute_countR (s : State) (c : CellIx) : ((s.recompute c).cell c).countR = (s.cell c).countR := by
  rcases s.recompute_cell c with h | h <;> rw [h] <;> rfl

@[simp] theorem State.recompute_queue (s : State) (c : CellIx) : ((s.recompute c).cell c).queue = (s.cell c).queue := by
  rcases s.recompute_cell c with h | h <;> rw [h] <;> rfl

@[simp] theorem State.recompute_enqueueOrder (s : State) (c : CellIx) :
    ((s.recompute c).cell c).enqueueOrder = (s.cell c).enqueueOrder := by
  rcases s.recompute_cell c with h | h <;> rw [h] <;> rfl

@[simp] theorem State.recompute_rankList (s : State) (c : CellIx) : ((s.recompute c).cell c).rankList = (s.cell c).rankList := by
  rcases s.recompute_cell c with h | h <;> rw [h] <;> rfl

@[simp] theorem State.recompute_occupancy (s : State) (c : CellIx) :
    ((s.recompute c).cell c).occupancy = (s.cell c).recomputed.occupancy := by
  rcases s.recompute_cell c with h | h <;> rw [h]

@[simp] theorem State.recompute_level (s : State) (c : CellIx) : ((s.recompute c).cell c).level = (s.cell c).recomputed.level := by
  rcases s.recompute_cell c with h | h <;> rw [h]

theorem State.recompute_port_ne (s : State) (c : CellIx) (o : PortIx) (h : o ≠ (s.cell c).owner) :
    (s.recompute c).port o = s.port o := by
  unfold State.recompute; dsimp only; split
  · rfl
  · refine (State.raiseLevel_port_ne _ _ _ ?_).trans rfl
    rw [State.cell_modCell_self]
    exact h

/-- With room in the owner port's ring and an empty backlog, a recompute leaves the ring with the LEVEL notice of a change of
level at its tail, and with nothing new when the level did not change (R129, R136). -/
theorem State.recompute_ring_direct (s : State) (c : CellIx) (hs : (s.port (s.cell c).owner).state ≠ .draining)
    (hd : (s.port (s.cell c).owner).takesDirectly = true) :
    ((s.recompute c).port (s.cell c).owner).ring = (s.port (s.cell c).owner).ring
      ++ (if (s.cell c).recomputed.level = (s.cell c).level then [] else [.level c (s.cell c).recomputed.level])
    ∧ ((s.recompute c).port (s.cell c).owner).backlog = [] := by
  have hb : (s.port (s.cell c).owner).backlog = [] := by
    simp only [Port.takesDirectly, Bool.and_eq_true, List.isEmpty_iff] at hd
    exact hd.1
  have follow : ∀ (q : Port) (now : Tick) (n : Nat), (q.followRing now n).ring = q.ring ∧ (q.followRing now n).backlog = q.backlog := by
    intro q now n
    unfold Port.followRing
    split
    · split
      · split <;> exact ⟨rfl, rfl⟩
      · exact ⟨rfl, rfl⟩
    · exact ⟨rfl, rfl⟩
  unfold State.recompute
  dsimp only
  simp only [State.cell_modCell_self]
  have ho : ((s.cell c).recomputed).owner = (s.cell c).owner := rfl
  split
  · simp [hb]
  · rw [State.raiseLevel_direct _ _ (by simpa [ho] using hs) (by simpa [ho] using hd)]
    simp [ho, Port.pushRing, (follow _ _ _).1, (follow _ _ _).2, hb]

/-! ### Raising a notice about a record -/

@[simp] theorem State.raiseSession_freeList (s : State) (i : Nat) (kind : SessionNotice) (cause : Cause) :
    (s.raiseSession i kind cause).freeList = s.freeList := by
  unfold State.raiseSession State.backlogSession; split
  · dsimp only; split
    · rfl
    · split
      · rfl
      · split <;> rfl
  · rfl

@[simp] theorem State.raiseSession_directory (s : State) (i : Nat) (kind : SessionNotice) (cause : Cause) :
    (s.raiseSession i kind cause).directory = s.directory := by
  unfold State.raiseSession State.backlogSession; split
  · dsimp only; split
    · rfl
    · split
      · rfl
      · split <;> rfl
  · rfl

@[simp] theorem State.raiseSession_cells (s : State) (i : Nat) (kind : SessionNotice) (cause : Cause) :
    (s.raiseSession i kind cause).cells = s.cells := by
  unfold State.raiseSession State.backlogSession; split
  · dsimp only; split
    · rfl
    · split
      · rfl
      · split <;> rfl
  · rfl

@[simp] theorem State.raiseSession_cell (s : State) (i : Nat) (kind : SessionNotice) (cause : Cause) (c : CellIx) :
    (s.raiseSession i kind cause).cell c = s.cell c := by
  simp [State.cell]

/-- A notice about a record changes at most the pending notice of that record. -/
theorem State.raiseSession_record (s : State) (i j : Nat) (kind : SessionNotice) (cause : Cause) :
    ((s.raiseSession i kind cause).record j).life = (s.record j).life
    ∧ ((s.raiseSession i kind cause).record j).generation = (s.record j).generation
    ∧ (j ≠ i → (s.raiseSession i kind cause).record j = s.record j) := by
  have hp : ∀ n : Option PendingNotice, ((s.setPending i n).record j).life = (s.record j).life
      ∧ ((s.setPending i n).record j).generation = (s.record j).generation
      ∧ (j ≠ i → (s.setPending i n).record j = s.record j) := by
    intro n
    rw [State.record_setPending]
    by_cases h : j = i <;> simp [h]
  unfold State.raiseSession State.backlogSession; split
  · dsimp only; split
    · exact ⟨rfl, rfl, fun _ => rfl⟩
    · split
      · exact ⟨rfl, rfl, fun _ => rfl⟩
      · split
        · exact hp _
        · exact hp _
  · exact ⟨rfl, rfl, fun _ => rfl⟩

@[simp] theorem State.raiseSession_liveAt (s : State) (i j : Nat) (kind : SessionNotice) (cause : Cause) :
    (s.raiseSession i kind cause).liveAt j = s.liveAt j := by
  unfold State.liveAt
  rw [(s.raiseSession_record i j kind cause).1]

@[simp] theorem State.raiseSession_handleOf (s : State) (i j : Nat) (kind : SessionNotice) (cause : Cause) :
    (s.raiseSession i kind cause).handleOf j = s.handleOf j := by
  unfold State.handleOf
  rw [(s.raiseSession_record i j kind cause).2.1]

/-- With room in the owner port's ring and an empty backlog, a notice about a record is appended at the ring's tail and no
record changes (R152, case 2). -/
theorem State.raiseSession_direct (s : State) (i : Nat) (kind : SessionNotice) (cause : Cause) (ses : Session) (st : Stage)
    (hl : s.liveAt i = some (ses, st)) (hs : (s.port (s.cell ses.key.cell).owner).state ≠ .draining)
    (hd : (s.port (s.cell ses.key.cell).owner).takesDirectly = true) :
    s.raiseSession i kind cause = s.modPort (s.cell ses.key.cell).owner fun q =>
      q.pushRing s.tick (.session kind cause (s.handleOf i) ses.key.cell ses.requestTag) := by
  simp [State.raiseSession, hl, hs, hd]

/-- At a DRAINING owner port a notice about a record is discarded (R152, case 1). -/
theorem State.raiseSession_discarded (s : State) (i : Nat) (kind : SessionNotice) (cause : Cause) (ses : Session) (st : Stage)
    (hl : s.liveAt i = some (ses, st)) (hs : (s.port (s.cell ses.key.cell).owner).state = .draining) :
    s.raiseSession i kind cause = s := by
  simp [State.raiseSession, hl, hs]

/-! ### Retirement (R11) -/

/-- What retirement of a live record leaves: the generation advanced; SPENT with its pending notice, or FREE at the free
list's tail; no directory entry under its key; off its cell's lists; every other record and cell as it was. -/
theorem State.retire_effect (s : State) (i : Nat) (ses : Session) (st : Stage) (hl : s.liveAt i = some (ses, st)) :
    (s.retire i).record i = Record.mk (nextGeneration (s.record i).generation)
        (if (s.record i).pending.isSome then .spent else .free) (s.record i).pending
    ∧ (∀ j, j ≠ i → (s.retire i).record j = s.record j)
    ∧ (s.retire i).freeList = (if (s.record i).pending.isSome then s.freeList else s.freeList ++ [i])
    ∧ (s.retire i).directory = sparseErase s.directory ses.key.code
    ∧ (∀ c, (s.retire i).cell c = if c = ses.key.cell then
        { s.cell c with
          rankList := (s.cell c).rankList.filter fun j => decide (j ≠ i)
          queue := (s.cell c).queue.filter fun j => decide (j ≠ i)
          enqueueOrder := (s.cell c).enqueueOrder.filter fun j => decide (j ≠ i) } else s.cell c)
    ∧ (s.retire i).ports = s.ports := by
  have hr : ∀ c : CellIx, (((s.dropKey ses.key).leaveRank ses.key.cell i).leaveQueue ses.key.cell i).cell c
      = if c = ses.key.cell then
        { s.cell c with
          rankList := (s.cell c).rankList.filter fun j => decide (j ≠ i)
          queue := (s.cell c).queue.filter fun j => decide (j ≠ i)
          enqueueOrder := (s.cell c).enqueueOrder.filter fun j => decide (j ≠ i) } else s.cell c := by
    intro c
    unfold State.leaveQueue State.leaveRank
    by_cases h : c = ses.key.cell
    · subst h; simp
    · simp [State.cell_modCell_ne _ _ _ _ h, h]
  have hrec : (((s.dropKey ses.key).leaveRank ses.key.cell i).leaveQueue ses.key.cell i).record i = s.record i := rfl
  unfold State.retire
  rw [hl]
  dsimp only
  rw [hrec]
  by_cases hp : (s.record i).pending.isSome = true
  · simp only [hp, if_true]
    refine ⟨by simp, fun j hj => by rw [State.record_setRecord_ne _ _ _ _ hj]; rfl, rfl, rfl, fun c => ?_, rfl⟩
    exact (hr c)
  · simp only [hp]
    refine ⟨?_, fun j hj => ?_, rfl, rfl, fun c => hr c, rfl⟩
    · simp
    · rw [if_neg (by simp)]
      show ((((s.dropKey ses.key).leaveRank ses.key.cell i).leaveQueue ses.key.cell i).setRecord i _).record j = _
      rw [State.record_setRecord_ne _ _ _ _ hj]; rfl

/-! ### Taking a record (R8, R10, R16) -/

/-- What taking the free list's head for a live record leaves. -/
theorem State.takeRecord_effect (s : State) (ses : Session) (st : Stage) (i : Nat) (rest : List Nat) (hf : s.freeList = i :: rest) :
    (s.takeRecord ses st).record i = { s.record i with life := .live ses st }
    ∧ (∀ j, j ≠ i → (s.takeRecord ses st).record j = s.record j)
    ∧ (s.takeRecord ses st).freeList = rest
    ∧ (s.takeRecord ses st).directory = sparseInsert s.directory ses.key.code (s.handleOf i)
    ∧ (s.takeRecord ses st).cells = s.cells ∧ (s.takeRecord ses st).ports = s.ports
    ∧ (s.takeRecord ses st).eventRaw = (if rest.length = 64 then s.eventRaw ||| reserveEvent else s.eventRaw) := by
  have hrec : ∀ t : State, t.record i = s.record i → (t.setLive i ses st).record i = { s.record i with life := .live ses st } := by
    intro t ht; rw [State.record_setLive, if_pos rfl, ht]
  unfold State.takeRecord
  rw [hf]
  dsimp only
  by_cases h : rest.length = Config.reserveSize
  · have h' : rest.length = 64 := h
    simp only [h, if_true]
    refine ⟨?_, fun j hj => ?_, rfl, rfl, rfl, rfl, rfl⟩
    · exact hrec _ rfl
    · show (({ s with freeList := rest } : State).setLive i ses st).record j = _
      rw [State.record_setLive, if_neg hj]; rfl
  · have h' : ¬ rest.length = 64 := h
    simp only [h, h', if_false]
    refine ⟨?_, fun j hj => ?_, rfl, rfl, rfl, rfl, rfl⟩
    · exact hrec _ rfl
    · show (({ s with freeList := rest } : State).setLive i ses st).record j = _
      rw [State.record_setLive, if_neg hj]; rfl

/-! ### Queue service -/

/-- A pass in an empty queue ends at once (R81). -/
theorem State.servicePass_empty (s : State) (c : CellIx) (h : (s.cell c).queue = []) : s.servicePass c = s := by
  simp [State.servicePass, h, State.passSteps]

theorem State.serviceWhen_empty (s : State) (b : Bool) (c : CellIx) (h : (s.cell c).queue = []) : s.serviceWhen b c = s := by
  simp [State.serviceWhen, State.servicePass_empty s c h]

@[simp] theorem State.serviceWhen_false (s : State) (c : CellIx) : s.serviceWhen false c = s := rfl

end Sys2Proof.Machine
end

