-- ==== Sys2Proof/Laws/Delivery.lean ====
section
/-! SUPPORT. What the shared operations do, in the terms of Safety.lean: raising a notice (Delivers), a counter change with its recompute (Recounted), retirement (RetiredFrom), a take (Taken), the end of bonds (Unbound), the clearing of a backlog (BacklogLeft). -/

namespace Sys2Proof.Machine

/-! ### Room -/

theorem Port.takesDirectly_iff (q : Port) : q.takesDirectly = true ↔ 0 < q.room := by
  unfold Port.takesDirectly Port.room
  by_cases h : q.backlog = [] <;> simp [h]

@[simp] theorem Port.followRing_ring (q : Port) (now : Tick) (n : Nat) : (q.followRing now n).ring = q.ring := by
  unfold Port.followRing; split
  · split
    · split <;> rfl
    · rfl
  · rfl

@[simp] theorem Port.followRing_backlog (q : Port) (now : Tick) (n : Nat) : (q.followRing now n).backlog = q.backlog := by
  unfold Port.followRing; split
  · split
    · split <;> rfl
    · rfl
  · rfl

theorem Port.side_state {q r : Port} (h : q.side = r.side) : q.state = r.state := congrArg PortSide.state h
theorem Port.side_ringSize {q r : Port} (h : q.side = r.side) : q.ringSize = r.ringSize := congrArg PortSide.ringSize h

/-! ### Delivery -/

@[simp] theorem State.isPending_record (s : State) (i : Nat) : s.isPending (.record i) = ((s.record i).pending ≠ none) := rfl
@[simp] theorem State.isPending_cell (s : State) (c : CellIx) : s.isPending (.cell c) = ((s.cell c).pendingLevel = true) := rfl

/-- What is pending is that of the records and cells alone. -/
theorem State.isPending_congr {s t : State} (hr : ∀ i, (t.record i).pending = (s.record i).pending)
    (hc : ∀ c, (t.cell c).pendingLevel = (s.cell c).pendingLevel) (e : BacklogEntry) : t.isPending e ↔ s.isPending e := by
  cases e with
  | record i => rw [State.isPending_record, State.isPending_record, hr]
  | cell c => rw [State.isPending_cell, State.isPending_cell, hc]

/-- A change of a cell's entry that leaves its pending LEVEL entry leaves what is pending. -/
theorem State.isPending_modCell (s : State) (c : CellIx) (f : Cell → Cell) (hf : ∀ k, (f k).pendingLevel = k.pendingLevel)
    (e : BacklogEntry) : (s.modCell c f).isPending e ↔ s.isPending e := by
  refine State.isPending_congr (s := s) (t := s.modCell c f) (fun _ => rfl) (fun d => ?_) e
  rw [State.cell_modCell]; split
  · next h => subst h; exact hf _
  · rfl

theorem Delivers.refl {s t : State} {p : PortIx} (h : t.port p = s.port p) (hp : ∀ e, t.isPending e ↔ s.isPending e) :
    Delivers s t p [] := by
  unfold Delivers
  split
  · exact ⟨h, hp⟩
  · exact ⟨by rw [h], by rw [h]; simp, ⟨[], by rw [h]; simp, by simp, by simp, by simp⟩, by simpa using hp⟩

/-- Delivery looks at one port and at what is pending alone. -/
theorem Delivers.congr {s s' t t' : State} {p : PortIx} {ns : List Notice} (hs : s'.port p = s.port p) (ht : t'.port p = t.port p)
    (ps : ∀ e, s'.isPending e ↔ s.isPending e) (pt : ∀ e, t'.isPending e ↔ t.isPending e)
    (h : Delivers s t p ns) : Delivers s' t' p ns := by
  unfold Delivers at *
  simp only [hs, ht, ps, pt]
  exact h

/-- The room left after a delivery. -/
theorem Delivers.room {s t : State} {p : PortIx} {ns : List Notice} (h : Delivers s t p ns) (hs : (s.port p).state ≠ .draining) :
    (t.port p).room = (s.port p).room - ns.length := by
  unfold Delivers at h
  rw [if_neg hs] at h
  obtain ⟨hside, hring, ⟨es, hbl, -, hsub, -⟩, -⟩ := h
  have hz := Port.side_ringSize hside
  by_cases hb : (s.port p).backlog = []
  · have hroom : (s.port p).room = (s.port p).ringSize - (s.port p).ring.length := by simp [Port.room, hb]
    have hlen : (t.port p).ring.length = (s.port p).ring.length + min ((s.port p).room) ns.length := by rw [hring]; simp
    by_cases hle : ns.length ≤ (s.port p).room
    · have : es = [] := by
        rw [List.drop_eq_nil_of_le hle] at hsub
        simpa using hsub
      have htb : (t.port p).backlog = [] := by rw [hbl, hb, this]; rfl
      unfold Port.room at *
      rw [if_pos htb, hz, hlen]
      rw [if_pos hb] at *
      omega
    · unfold Port.room at *
      rw [if_pos hb] at *
      split
      · rw [hz, hlen]; omega
      · omega
  · have : (t.port p).backlog ≠ [] := by rw [hbl]; simp [hb]
    simp [Port.room, hb, this]

/-- Two deliveries one after the other are one delivery of all the notices. -/
theorem Delivers.trans {s t u : State} {p : PortIx} {ns ms : List Notice} (h1 : Delivers s t p ns) (h2 : Delivers t u p ms) :
    Delivers s u p (ns ++ ms) := by
  by_cases hs : (s.port p).state = .draining
  · unfold Delivers at h1; rw [if_pos hs] at h1
    have ht : (t.port p).state = .draining := by rw [h1.1]; exact hs
    unfold Delivers at h2; rw [if_pos ht] at h2
    unfold Delivers; rw [if_pos hs]
    exact ⟨h2.1.trans h1.1, fun e => (h2.2 e).trans (h1.2 e)⟩
  · have hroom := h1.room hs
    unfold Delivers at h1
    rw [if_neg hs] at h1
    obtain ⟨hside, hring, ⟨es, hbl, nes, ses, mes⟩, hpe⟩ := h1
    have ht : (t.port p).state ≠ .draining := by rw [Port.side_state hside]; exact hs
    unfold Delivers at h2
    rw [if_neg ht, hroom] at h2
    obtain ⟨hside2, hring2, ⟨fs, hbl2, nfs, sfs, mfs⟩, hpe2⟩ := h2
    unfold Delivers
    rw [if_neg hs, List.drop_append, List.map_append]
    refine ⟨hside2.trans hside, ?_, ⟨es ++ fs, ?_, ?_, ses.append sfs, fun e => ?_⟩, fun e => ?_⟩
    · rw [hring2, hring, List.take_append, List.append_assoc]
    · rw [hbl2, hbl, List.append_assoc]
    · refine List.nodup_append.2 ⟨nes, nfs, fun a ha b hb hab => ?_⟩
      subst hab
      exact ((mfs a).1 hb).2 ((hpe a).2 (.inr ((mes a).1 ha).1))
    · rw [List.mem_append, List.mem_append, mes, mfs, hpe]; tauto
    · rw [hpe2, hpe, List.mem_append, or_assoc]

theorem Port.pushRing_ring (q : Port) (now : Tick) (n : Notice) : (q.pushRing now n).ring = q.ring ++ [n] := by
  simp [Port.pushRing]

theorem Port.pushRing_backlog (q : Port) (now : Tick) (n : Notice) : (q.pushRing now n).backlog = q.backlog := by
  simp [Port.pushRing]

/-- A notice appended to a ring with room is delivered. -/
theorem Delivers.push {s t : State} {p : PortIx} {n : Notice} (hs : (s.port p).state ≠ .draining) (hr : 0 < (s.port p).room)
    (h : t.port p = (s.port p).pushRing s.tick n) (hp : ∀ e, t.isPending e ↔ s.isPending e) : Delivers s t p [n] := by
  unfold Delivers
  have hd : [n].drop (s.port p).room = [] := List.drop_eq_nil_of_le (Nat.succ_le_of_lt hr)
  rw [if_neg hs, h, hd]
  refine ⟨Port.pushRing_side .., ?_, ⟨[], ?_, by simp, by simp, by simp⟩, by simpa using hp⟩
  · rw [Port.pushRing_ring, List.take_of_length_le (Nat.succ_le_of_lt hr)]
  · rw [Port.pushRing_backlog]; simp

/-- A notice whose entry joins the backlog, or takes the place of one, is delivered. -/
theorem Delivers.wait {s t : State} {p : PortIx} {n : Notice} (es : List BacklogEntry) (hs : (s.port p).state ≠ .draining)
    (hr : (s.port p).room = 0) (hes : (s.isPending n.entry ∧ es = []) ∨ (¬ s.isPending n.entry ∧ es = [n.entry]))
    (h : t.port p = { s.port p with backlog := (s.port p).backlog ++ es })
    (hp : ∀ e, t.isPending e ↔ s.isPending e ∨ e = n.entry) : Delivers s t p [n] := by
  unfold Delivers
  rw [if_neg hs, h, hr]
  refine ⟨rfl, by simp, ⟨es, rfl, ?_⟩, by simpa using hp⟩
  rcases hes with ⟨h1, rfl⟩ | ⟨h1, rfl⟩
  · exact ⟨by simp, by simp, fun e => ⟨by simp, by rintro ⟨h2, h3⟩; simp at h2; exact absurd h1 (h2 ▸ h3)⟩⟩
  · exact ⟨by simp, by simp, fun e => ⟨by intro h2; simp at h2; subst h2; exact ⟨by simp, h1⟩, by rintro ⟨h2, h3⟩; simpa using h2⟩⟩

/-! ### Updates that change nothing -/

theorem State.modPort_id (s : State) (p : PortIx) (f : Port → Port) (h : f (s.port p) = s.port p) : s.modPort p f = s := by
  have h2 : f s.ports[p] = s.ports[p] := h
  have h3 : s.ports.set p (f s.ports[p]) = s.ports := by rw [h2]; exact Vector.set_getElem_self ..
  exact congrArg (fun v => { s with ports := v }) h3

theorem State.modCell_id (s : State) (c : CellIx) (f : Cell → Cell) (h : f (s.cell c) = s.cell c) : s.modCell c f = s := by
  have h2 : f s.cells[c] = s.cells[c] := h
  have h3 : s.cells.set c (f s.cells[c]) = s.cells := by rw [h2]; exact Vector.set_getElem_self ..
  exact congrArg (fun v => { s with cells := v }) h3

theorem State.modCell_modCell (s : State) (c : CellIx) (f g : Cell → Cell) :
    (s.modCell c f).modCell c g = s.modCell c fun k => g (f k) := by
  unfold State.modCell
  simp

/-! ### A newcomer in A and on the rank list -/

theorem State.levelAt_setLive (s : State) (i j : Nat) (ses : Session) (st : Stage) :
    (s.setLive i ses st).levelAt j = s.levelsWith i ses.level j := by
  unfold State.levelAt State.levelsWith
  rw [State.liveAt_setLive]
  by_cases h : j = i <;> simp [h, State.levelAt]

/-- A record whose level is the session's, counted in A and taken on the rank list, is one change of its cell's entry. -/
theorem State.countSetup_eq (s : State) (c : CellIx) (i : Nat) (ses : Session) (h : s.levelAt i = ses.level) :
    s.countSetup c i ses = s.modCell c fun k => s.counted k i ses := by
  have hl : s.levelsWith i ses.level = s.levelAt := by
    funext j; unfold State.levelsWith; split
    · rename_i hj; rw [hj, h]
    · rfl
  have ha : (s.addA c ses.demand).levelAt = s.levelAt := rfl
  unfold State.countSetup State.joinRank State.counted
  by_cases hv : ses.vulnerable = true
  · simp only [hv, if_true, ha, hl]
    exact State.modCell_modCell ..
  · simp only [hv, if_false, State.addA, Bool.false_eq_true]

/-- The level of a record just made live. -/
theorem State.levelAt_setLive_self (s : State) (i : Nat) (ses : Session) (st : Stage) :
    (s.setLive i ses st).levelAt i = ses.level := by
  rw [State.levelAt_setLive]; simp [State.levelsWith]

/-! ### A notice about a record -/

/-- Everything that raising a notice about a live record can do (R4, R152, R154). -/
theorem State.raiseSession_cases (s : State) (i : Nat) (kind : SessionNotice) (cause : Cause) (ses : Session) (st : Stage)
    (hl : s.liveAt i = some (ses, st)) (p : PortIx) (hp : p = (s.cell ses.key.cell).owner) :
    ((s.port p).state = .draining ∧ s.raiseSession i kind cause = s)
    ∨ ((s.port p).state ≠ .draining ∧ 0 < (s.port p).room
      ∧ s.raiseSession i kind cause = s.modPort p fun q => q.pushRing s.tick (s.ringNotice i ses kind cause))
    ∨ ((s.port p).state ≠ .draining ∧ (s.port p).room = 0
      ∧ s.raiseSession i kind cause = (s.setPending i (some (s.noticeOf i ses kind cause))).modPort p fun q =>
        { q with backlog := q.backlog ++ if (s.record i).pending = none then [.record i] else [] }) := by
  subst hp
  by_cases hs : (s.port (s.cell ses.key.cell).owner).state = .draining
  · exact .inl ⟨hs, s.raiseSession_discarded i kind cause ses st hl hs⟩
  · by_cases hr : 0 < (s.port (s.cell ses.key.cell).owner).room
    · exact .inr (.inl ⟨hs, hr, s.raiseSession_direct i kind cause ses st hl hs ((Port.takesDirectly_iff _).2 hr)⟩)
    · refine .inr (.inr ⟨hs, by omega, ?_⟩)
      have hd : (s.port (s.cell ses.key.cell).owner).takesDirectly = false := by
        rw [Bool.eq_false_iff]; exact fun h => hr ((Port.takesDirectly_iff _).1 h)
      simp only [State.raiseSession, hl, hs, hd, if_false, State.backlogSession, Bool.false_eq_true]
      cases hpend : (s.record i).pending with
      | none => simp only [Option.isSome_none, Bool.false_eq_true, if_false]; rfl
      | some n =>
        simp only [Option.isSome_some, if_true, reduceCtorEq, if_false, List.append_nil]
        exact (State.modPort_id _ _ _ rfl).symm

/-- The record after a notice about it: its pending notice alone may differ. -/
theorem State.raiseSession_record_self (s : State) (i : Nat) (kind : SessionNotice) (cause : Cause) (ses : Session) (st : Stage)
    (hl : s.liveAt i = some (ses, st)) :
    (s.raiseSession i kind cause).record i = { s.record i with
      pending := s.pendingAfter (s.cell ses.key.cell).owner 0 i (s.noticeOf i ses kind cause) } := by
  unfold State.pendingAfter
  rcases s.raiseSession_cases i kind cause ses st hl _ rfl with ⟨h, e⟩ | ⟨h, hr, e⟩ | ⟨h, hr, e⟩ <;> rw [e]
  · rw [if_pos (.inl h)]
  · rw [if_pos (.inr hr)]; rfl
  · have hn : ¬ ((s.port (s.cell ses.key.cell).owner).state = .draining ∨ 0 < (s.port (s.cell ses.key.cell).owner).room) := by
      simp [h, hr]
    rw [State.modPort_record, State.record_setPending, if_pos rfl]
    simp only [hn, if_false]

theorem State.raiseSession_delivers (s : State) (i : Nat) (kind : SessionNotice) (cause : Cause) (ses : Session) (st : Stage)
    (hl : s.liveAt i = some (ses, st)) (p : PortIx) (hp : p = (s.cell ses.key.cell).owner) :
    Delivers s (s.raiseSession i kind cause) p [s.ringNotice i ses kind cause] := by
  rcases s.raiseSession_cases i kind cause ses st hl p hp with ⟨h, e⟩ | ⟨h, hr, e⟩ | ⟨h, hr, e⟩ <;> rw [e]
  · unfold Delivers; rw [if_pos h]; exact ⟨rfl, fun _ => Iff.rfl⟩
  · exact Delivers.push h hr (State.port_modPort_self ..) (State.isPending_congr (fun _ => rfl) fun _ => rfl)
  · refine Delivers.wait (if (s.record i).pending = none then [.record i] else []) h hr ?_ (State.port_modPort_self ..) ?_
    · by_cases hn : (s.record i).pending = none
      · exact .inr ⟨fun hh => hh hn, by rw [if_pos hn]; rfl⟩
      · exact .inl ⟨hn, by rw [if_neg hn]⟩
    · intro e
      cases e with
      | record j =>
        rw [State.isPending_record, State.isPending_record, State.modPort_record, State.record_setPending]
        by_cases hj : j = i
        · subst hj; simp [Notice.entry, State.ringNotice, State.handleOf]
        · simp [hj, Notice.entry, State.ringNotice, State.handleOf]
      | cell c => simp [Notice.entry, State.ringNotice]

theorem State.raiseSession_port_ne (s : State) (i : Nat) (kind : SessionNotice) (cause : Cause) (ses : Session) (st : Stage)
    (hl : s.liveAt i = some (ses, st)) (o : PortIx) (ho : o ≠ (s.cell ses.key.cell).owner) :
    (s.raiseSession i kind cause).port o = s.port o := by
  rcases s.raiseSession_cases i kind cause ses st hl _ rfl with ⟨h, e⟩ | ⟨h, hr, e⟩ | ⟨h, hr, e⟩ <;> rw [e]
  · exact State.port_modPort_ne _ _ _ _ ho
  · exact State.port_modPort_ne _ _ _ _ ho

/-! ### A LEVEL notice -/

/-- Everything that raising a LEVEL notice can do (R136, R152, R154). -/
theorem State.raiseLevel_cases (s : State) (c : CellIx) (p : PortIx) (hp : p = (s.cell c).owner) :
    ((s.port p).state = .draining ∧ s.raiseLevel c = s)
    ∨ ((s.port p).state ≠ .draining ∧ 0 < (s.port p).room
      ∧ s.raiseLevel c = s.modPort p fun q => q.pushRing s.tick (.level c (s.cell c).level))
    ∨ ((s.port p).state ≠ .draining ∧ (s.port p).room = 0
      ∧ s.raiseLevel c = (s.modCell c fun k => { k with pendingLevel := true }).modPort p fun q =>
        { q with backlog := q.backlog ++ if (s.cell c).pendingLevel = true then [] else [.cell c] }) := by
  subst hp
  unfold State.raiseLevel
  by_cases hs : (s.port (s.cell c).owner).state = .draining
  · exact .inl ⟨hs, by simp [hs]⟩
  · by_cases hr : 0 < (s.port (s.cell c).owner).room
    · exact .inr (.inl ⟨hs, hr, by simp [hs, (Port.takesDirectly_iff _).2 hr]⟩)
    · refine .inr (.inr ⟨hs, by omega, ?_⟩)
      have hd : (s.port (s.cell c).owner).takesDirectly = false := by
        rw [Bool.eq_false_iff]; exact fun h => hr ((Port.takesDirectly_iff _).1 h)
      simp only [hs, hd, if_false, Bool.false_eq_true]
      cases hpl : (s.cell c).pendingLevel with
      | false => simp only [Bool.false_eq_true, if_false]; rfl
      | true =>
        simp only [if_true, List.append_nil]
        rw [State.modCell_id s c _ (by rw [← hpl])]
        exact (State.modPort_id _ _ _ rfl).symm

theorem State.raiseLevel_delivers (s : State) (c : CellIx) (p : PortIx) (hp : p = (s.cell c).owner) :
    Delivers s (s.raiseLevel c) p [.level c (s.cell c).level] := by
  rcases s.raiseLevel_cases c p hp with ⟨h, e⟩ | ⟨h, hr, e⟩ | ⟨h, hr, e⟩ <;> rw [e]
  · unfold Delivers; rw [if_pos h]; exact ⟨rfl, fun _ => Iff.rfl⟩
  · exact Delivers.push h hr (State.port_modPort_self ..) (State.isPending_congr (fun _ => rfl) fun _ => rfl)
  · refine Delivers.wait (if (s.cell c).pendingLevel = true then [] else [.cell c]) h hr ?_ (State.port_modPort_self ..) ?_
    · by_cases hn : (s.cell c).pendingLevel = true
      · exact .inl ⟨hn, by rw [if_pos hn]⟩
      · exact .inr ⟨hn, by rw [if_neg hn]; rfl⟩
    · intro e
      cases e with
      | record j => simp [Notice.entry]
      | cell d =>
        rw [State.isPending_cell, State.isPending_cell, State.modPort_cell, State.cell_modCell]
        by_cases hd : d = c
        · subst hd; simp [Notice.entry]
        · simp [hd, Notice.entry]

/-! ### A recompute -/

theorem State.raiseLevel_cellIs (s : State) (c : CellIx) : CellIs (s.raiseLevel c) c (s.cell c) := by
  unfold CellIs
  rcases s.raiseLevel_cell c c with h | ⟨-, h⟩ <;> rw [h]

/-- What a recompute does (R128, R129, R136). -/
theorem State.recompute_recounted (s : State) (c : CellIx) :
    CellIs (s.recompute c) c (s.cell c).recomputed ∧ CellsKept s (s.recompute c) [c]
    ∧ Delivers s (s.recompute c) (s.cell c).owner (levelNotices s (s.recompute c) c)
    ∧ PortsKept s (s.recompute c) [(s.cell c).owner] ∧ Still s (s.recompute c) := by
  have hlev : ((s.recompute c).cell c).level = (s.cell c).recomputed.level := by
    rcases s.recompute_cell c with h | h <;> rw [h]
  refine ⟨?_, fun d hd => s.recompute_cell_ne c d (by simpa using hd), ?_,
    fun o ho => s.recompute_port_ne c o (by simpa using ho), still_recompute s c⟩
  · unfold CellIs
    rcases s.recompute_cell c with h | h <;> rw [h]
  · unfold levelNotices
    rw [hlev]
    unfold State.recompute
    simp only [State.cell_modCell_self]
    split
    · exact Delivers.refl rfl (State.isPending_modCell s c Cell.recomputed fun _ => rfl)
    · have h := (s.modCell c Cell.recomputed).raiseLevel_delivers c (s.cell c).owner (by rw [State.cell_modCell_self]; rfl)
      rw [State.cell_modCell_self] at h
      exact Delivers.congr (s := s.modCell c Cell.recomputed) rfl rfl (fun e => (State.isPending_modCell s c Cell.recomputed (fun _ => rfl) e).symm) (fun _ => Iff.rfl) h

/-- A still change that gives one cell the entry k, with its level as it was, and leaves the other cells and the ports alone,
with the recompute that follows it. -/
theorem State.recounted_of_change {s x : State} {c : CellIx} {k : Cell} (hst : Still s x) (hp : ∀ o, x.port o = s.port o)
    (hpe : ∀ e, x.isPending e ↔ s.isPending e) (hne : ∀ d, d ≠ c → x.cell d = s.cell d) (hk : x.cell c = k) (hl : k.level = (s.cell c).level) :
    Recounted s (x.recompute c) c k := by
  obtain ⟨h1, h2, h3, h4, h5⟩ := x.recompute_recounted c
  have ho : (x.cell c).owner = (s.cell c).owner := hst.1.cellOwner c
  rw [ho] at h3 h4
  rw [hk] at h1
  refine ⟨h1, fun d hd => (h2 d hd).trans (hne d (by simpa using hd)), ?_, fun o hoo => (h4 o hoo).trans (hp o), hst.trans h5⟩
  have : levelNotices x (x.recompute c) c = levelNotices s (x.recompute c) c := by unfold levelNotices; rw [hk, hl]
  rw [this] at h3
  exact Delivers.congr (hp _).symm rfl (fun e => (hpe e).symm) (fun _ => Iff.rfl) h3

/-- A change of one cell's entry that leaves its settings and its level, with the recompute that follows it. -/
theorem State.recounted_modCell (s : State) (c : CellIx) (f : Cell → Cell) (hs : ∀ k, (f k).settings = k.settings)
    (hpl : ∀ k, (f k).pendingLevel = k.pendingLevel)
    (hl : (f (s.cell c)).level = (s.cell c).level) : Recounted s ((s.modCell c f).recompute c) c (f (s.cell c)) :=
  State.recounted_of_change (still_modCell s c f hs) (fun _ => rfl) (State.isPending_modCell s c f hpl) (fun _ hd => State.cell_modCell_ne _ _ _ _ hd)
    (State.cell_modCell_self ..) hl

/-! ### Retirement, takes and bonds -/

/-- Retirement of a live record (R11). -/
theorem State.retire_retiredFrom (s : State) (i : Nat) (ses : Session) (st : Stage) (hl : s.liveAt i = some (ses, st)) :
    RetiredFrom s (s.retire i) i ses := by
  obtain ⟨h1, h2, h3, h4, h5, h6⟩ := s.retire_effect i ses st hl
  refine ⟨⟨h1, h3, ?_, ?_⟩, fun j hj => h2 j (by simpa using hj), ?_, fun d hd => ?_, h6, still_retire s i⟩
  · unfold State.findKey; rw [h4]; simp
  · intro k hk
    unfold State.findKey; rw [h4]
    exact sparseFind_erase_ne _ _ _ fun hc => hk (Key.code_injective hc)
  · rw [h5, if_pos rfl]; rfl
  · rw [h5, if_neg (by simpa using hd)]

/-- A retirement leaves what is pending (R11). -/
theorem RetiredFrom.isPending {s t : State} {i : Nat} {ses : Session} (h : RetiredFrom s t i ses) (e : BacklogEntry) :
    t.isPending e ↔ s.isPending e := by
  obtain ⟨⟨h1, -, -⟩, h2, h3, h4, -, -⟩ := h
  refine State.isPending_congr (fun j => ?_) (fun d => ?_) e
  · by_cases hj : j = i
    · rw [hj, h1]
    · rw [h2 j (by simpa using hj)]
  · by_cases hd : d = ses.key.cell
    · rw [hd, h3]; rfl
    · rw [h4 d (by simpa using hd)]

/-- A take of the free list's head (R8, R10, R16). -/
theorem State.takeRecord_taken (s : State) (ses : Session) (st : Stage) (i : Nat) (rest : List Nat) (hf : s.freeList = i :: rest) :
    Taken s (s.takeRecord ses st) i ses st ∧ RecordsKept s (s.takeRecord ses st) [i] ∧ ReserveRaised s (s.takeRecord ses st)
    ∧ (s.takeRecord ses st).cells = s.cells ∧ (s.takeRecord ses st).ports = s.ports ∧ Quiet s (s.takeRecord ses st) := by
  obtain ⟨h1, h2, h3, h4, h5, h6, h7⟩ := s.takeRecord_effect ses st i rest hf
  refine ⟨⟨by rw [hf, h3], by rw [h1], ?_, ?_⟩, fun j hj => h2 j (by simpa using hj), ?_, h5, h6, ?_⟩
  · unfold State.findKey; rw [h4]; simp
  · intro k hk
    unfold State.findKey; rw [h4]
    exact sparseFind_insert_ne _ _ _ _ fun hc => hk (Key.code_injective hc)
  · unfold ReserveRaised
    rw [h3]
    unfold State.takeRecord
    by_cases h64 : rest.length = 64
    · have h : rest.length = Config.reserveSize := h64
      simp only [hf, h, if_true]
      exact ⟨rfl, rfl⟩
    · have h : ¬ rest.length = Config.reserveSize := h64
      rw [if_neg h64]
      simp only [hf, h, if_false]
      exact ⟨rfl, rfl⟩
  · unfold State.takeRecord
    simp only [hf]
    split <;> exact ⟨rfl, fun _ => rfl, fun _ => rfl⟩

/-! ### The end of bonds (R61, R64) -/

theorem Record.unbound_generation (r : Record) : r.unbound.generation = r.generation := by
  unfold Record.unbound; split <;> rfl

theorem Record.unbound_unbound (r : Record) : r.unbound.unbound = r.unbound := by
  obtain ⟨g, life, n⟩ := r
  cases life with
  | live ses st => cases st <;> rfl
  | free => rfl
  | spent => rfl

theorem State.unbind_record (s : State) (h : Handle) (j : Nat) :
    (s.unbind h).record j = if s.handleOf j = h then (s.record j).unbound else s.record j := by
  have hj : s.handleOf j = h ↔ j = h.index ∧ (s.record h.index).generation = h.generation := by
    obtain ⟨i, g⟩ := h
    simp only [State.handleOf, Handle.mk.injEq]
    constructor
    · rintro ⟨rfl, h2⟩; exact ⟨rfl, h2⟩
    · rintro ⟨rfl, h2⟩; exact ⟨rfl, h2⟩
  unfold State.unbind
  split
  · rename_i ses stamp b deadline hl
    have hlife := State.liveAt_eq_some.1 hl
    by_cases hg : (s.record h.index).generation = h.generation
    · rw [if_pos hg, State.record_setLive]
      by_cases hx : j = h.index
      · subst hx
        rw [if_pos rfl, if_pos (hj.2 ⟨rfl, hg⟩)]
        unfold Record.unbound; rw [hlife]
      · rw [if_neg hx, if_neg (fun h1 => hx (hj.1 h1).1)]
    · rw [if_neg hg, if_neg (fun h1 => hg (hj.1 h1).2)]
  · rename_i hn
    by_cases h1 : s.handleOf j = h
    · rw [if_pos h1]
      obtain ⟨rfl, -⟩ := hj.1 h1
      unfold Record.unbound
      split
      · rename_i ses stamp b deadline hlife
        exact absurd (State.liveAt_eq_some.2 hlife) (hn _ _ _ _)
      · rfl
    · rw [if_neg h1]

theorem State.unbind_frame (s : State) (h : Handle) : { s.unbind h with records := s.records } = s := by
  unfold State.unbind; split
  · split <;> rfl
  · rfl

/-- The records that lose their beneficiary when the bonds with these victims end. -/
theorem State.unbindAll_record (hs : List Handle) (s : State) (j : Nat) :
    (s.unbindAll hs).record j = if s.handleOf j ∈ hs then (s.record j).unbound else s.record j := by
  unfold State.unbindAll
  induction hs generalizing s with
  | nil => simp
  | cons h hs ih =>
    rw [List.foldl_cons, ih]
    have hh : (s.unbind h).handleOf j = s.handleOf j := by
      unfold State.handleOf; rw [State.unbind_record]; split
      · rw [Record.unbound_generation]
      · rfl
    rw [hh, State.unbind_record]
    by_cases h1 : s.handleOf j = h <;> by_cases h2 : s.handleOf j ∈ hs <;> simp_all [Record.unbound_unbound]

theorem State.unbindAll_frame (hs : List Handle) (s : State) : { s.unbindAll hs with records := s.records } = s := by
  unfold State.unbindAll
  induction hs generalizing s with
  | nil => rfl
  | cons h hs ih =>
    rw [List.foldl_cons]
    have h1 := ih (s.unbind h)
    have h2 := s.unbind_frame h
    have h3 : ∀ t u : State, { t with records := u.records } = u → { t with records := s.records } = { u with records := s.records } := by
      intro t u hh; rw [← hh]
    rw [h3 _ _ h1, h2]

@[simp] theorem State.unbindAll_cells (hs : List Handle) (s : State) : (s.unbindAll hs).cells = s.cells :=
  (congrArg State.cells (s.unbindAll_frame hs) :)
@[simp] theorem State.unbindAll_ports (hs : List Handle) (s : State) : (s.unbindAll hs).ports = s.ports :=
  (congrArg State.ports (s.unbindAll_frame hs) :)
@[simp] theorem State.unbindAll_freeList (hs : List Handle) (s : State) : (s.unbindAll hs).freeList = s.freeList :=
  (congrArg State.freeList (s.unbindAll_frame hs) :)
@[simp] theorem State.unbindAll_directory (hs : List Handle) (s : State) : (s.unbindAll hs).directory = s.directory :=
  (congrArg State.directory (s.unbindAll_frame hs) :)
@[simp] theorem State.unbindAll_tick (hs : List Handle) (s : State) : (s.unbindAll hs).tick = s.tick :=
  (congrArg State.tick (s.unbindAll_frame hs) :)
@[simp] theorem State.unbindAll_cell (hs : List Handle) (s : State) (c : CellIx) : (s.unbindAll hs).cell c = s.cell c := by
  simp [State.cell]
@[simp] theorem State.unbindAll_port (hs : List Handle) (s : State) (p : PortIx) : (s.unbindAll hs).port p = s.port p := by
  simp [State.port]

end Sys2Proof.Machine
end

