-- ==== Sys2Proof/Laws/Requests.lean ====
section
/-! SUPPORT. What the request commands share: the hand-over, the resolution of handles, the routes of a newcomer. -/

namespace Sys2Proof.Machine

/-- A request command takes the request that the arbiter hands over when it is one the command carries out (R169). -/
theorem State.serve_taken {s : State} {wanted} {carry} {l p r} (h : s.arbiterChoice = some (l, p, r)) (hw : wanted r = true) :
    s.serve wanted carry = .next (carry p l r (s.handOver l p)) := by simp [State.serve, h, hw]

@[simp] theorem State.handOver_tableOpen (s : State) (l p) : (s.handOver l p).tableOpen = s.tableOpen := by cases l <;> rfl

@[simp] theorem State.handOver_classAt (s : State) (l p k) : (s.handOver l p).classAt k = s.classAt k := by cases l <;> rfl

@[simp] theorem State.handOver_classes (s : State) (l p) : (s.handOver l p).classes = s.classes := by cases l <;> rfl

@[simp] theorem State.handOver_liveAt (s : State) (l p k) : (s.handOver l p).liveAt k = s.liveAt k := by cases l <;> rfl

@[simp] theorem State.handOver_record (s : State) (l p k) : (s.handOver l p).record k = s.record k := by cases l <;> rfl

@[simp] theorem State.handOver_records (s : State) (l p) : (s.handOver l p).records = s.records := by cases l <;> rfl

@[simp] theorem State.handOver_cell (s : State) (l p k) : (s.handOver l p).cell k = s.cell k := by cases l <;> rfl

@[simp] theorem State.handOver_cells (s : State) (l p) : (s.handOver l p).cells = s.cells := by cases l <;> rfl

@[simp] theorem State.handOver_findKey (s : State) (l p k) : (s.handOver l p).findKey k = s.findKey k := by cases l <;> rfl

@[simp] theorem State.handOver_directory (s : State) (l p) : (s.handOver l p).directory = s.directory := by cases l <;> rfl

@[simp] theorem State.handOver_handleOf (s : State) (l p k) : (s.handOver l p).handleOf k = s.handleOf k := by cases l <;> rfl

@[simp] theorem State.handOver_tick (s : State) (l p) : (s.handOver l p).tick = s.tick := by cases l <;> rfl

@[simp] theorem State.handOver_freeList (s : State) (l p) : (s.handOver l p).freeList = s.freeList := by cases l <;> rfl

@[simp] theorem State.handOver_agingWeight (s : State) (l p) : (s.handOver l p).agingWeight = s.agingWeight := by cases l <;> rfl

@[simp] theorem State.handOver_eventRaw (s : State) (l p) : (s.handOver l p).eventRaw = s.eventRaw := by cases l <;> rfl

theorem State.handOver_levelAt (s : State) (l p) : (s.handOver l p).levelAt = s.levelAt := by funext j; unfold State.levelAt; simp

theorem State.handOver_emergencyAt (s : State) (l p) : (s.handOver l p).emergencyAt = s.emergencyAt := by funext j; unfold State.emergencyAt State.sessionAt; simp

theorem State.handOver_virtualAt (s : State) (l p) : (s.handOver l p).virtualAt = s.virtualAt := by funext j; unfold State.virtualAt; simp

theorem State.handOver_outranksHead (s : State) (l p) (c ses) : (s.handOver l p).outranksHead c ses ↔ s.outranksHead c ses := by
  unfold State.outranksHead; rw [State.handOver_cell, State.handOver_emergencyAt, State.handOver_virtualAt, State.handOver_tick, State.handOver_agingWeight]

theorem State.handOver_fits (s : State) (l p) (c e d) : (s.handOver l p).fits c e d ↔ s.fits c e d := by unfold State.fits; rw [State.handOver_cell]

theorem State.handOver_victimsFor (s : State) (l p) (c ses) : (s.handOver l p).victimsFor c ses = s.victimsFor c ses := by
  have hw : ∀ lv sf room v L, (s.handOver l p).victimWalk lv sf room v L = s.victimWalk lv sf room v L := by
    intro lv sf room
    induction room with
    | zero => intro v L; simp [State.victimWalk]
    | succ n ih => intro v L; cases L with
      | nil => simp [State.victimWalk]
      | cons i rest => simp only [State.victimWalk, ih, State.handOver_levelAt]; have : (s.handOver l p).demandAt i = s.demandAt i := by (unfold State.demandAt; simp)
                       rw [this]
  unfold State.victimsFor; rw [State.handOver_cell]; simp only [hw]

theorem State.handOver_mayPreempt (s : State) (l p) (ses) : (s.handOver l p).mayPreempt ses = s.mayPreempt ses := by unfold State.mayPreempt; simp

theorem State.handOver_full (s : State) (l p c) : (s.handOver l p).full c ↔ s.full c := by
  unfold State.full; simp only [State.handOver_cell]

/-- A resolved handle leads to the request's own rule on its record (R6). -/
theorem State.withRecord_resolved {s : State} {p : PortIx} {r : Request} {ses st} (h : s.resolves p r.handle ses st) (act) : s.withRecord p r act = act ses st := by
  obtain ⟨⟨hl, hg, h0⟩, ho⟩ := h
  unfold State.withRecord
  rw [hl]; simp only
  rw [if_pos ⟨h0, by rw [← hg]; simp [State.handleOf]⟩, if_pos ho]

/-- Handing a request over leaves the resolution of its handle as it was. -/
theorem State.handOver_resolves {s : State} {l} {p q : PortIx} {r : Request} {ses st} (h : s.resolves p r.handle ses st) : (s.handOver l q).resolves p r.handle ses st := by
  simpa [State.resolves, State.named] using h

/-- In an open table a body in range leads to the request's own rule (R171, R173). -/
theorem State.engine_open {s : State} {p r act} (ho : s.tableOpen = true) : s.engine p r false act = (act s).1.answer p r (act s).2 := by
  simp [State.engine, ho]

/-- A change of one live record leaves the other records. -/
theorem State.recordsKept_setLive (s : State) (i : Nat) (ses st) : RecordsKept s (s.setLive i ses st) [i] := by
  intro j hj; rw [State.record_setLive, if_neg (by simpa using hj)]

/-- What a record gives up before its retirement leaves it live, with its session (R93 to R96). -/
theorem State.giveUp_live (s : State) (i : Nat) (ses : Session) (st : Stage) (hl : s.liveAt i = some (ses, st)) : ∃ st', (s.giveUp i ses st).liveAt i = some (ses, st') := by
  cases st with
  | queued a b c => exact ⟨_, hl⟩
  | setup a b => refine ⟨.setup a b, ?_⟩; simp only [State.giveUp]; rw [State.recompute_liveAt]; exact hl
  | active a => refine ⟨.active a, ?_⟩; simp only [State.giveUp]; rw [State.recompute_liveAt]; exact hl
  | held v n r c =>
    refine ⟨.held v n r c, ?_⟩
    have h0 : ((s.subR ses.key.cell (r + c)).unbindAll v).liveAt i = some (ses, .held v n r c) := by
      rw [State.liveAt_eq_some, State.unbindAll_record]
      have := State.liveAt_eq_some.1 hl
      have e : (s.subR ses.key.cell (r + c)).record i = s.record i := rfl
      rw [e]; split
      · unfold Record.unbound; rw [this]; exact this
      · exact this
    simp only [State.giveUp, State.withdrawHeld]; split
    · exact h0
    · rw [State.recompute_liveAt]; exact h0
  | ceding stamp b d =>
    refine ⟨.ceding stamp b d, ?_⟩
    simp only [State.giveUp, State.victimExit]; rw [State.recompute_liveAt]
    cases b with
    | none => exact hl
    | some b =>
      simp only
      unfold State.passUnits
      split
      · rename_i h victims need reserved collected hb
        have hb : s.liveAt b.index = some (h, .held victims need reserved collected) := hb
        have hne : i ≠ b.index := by rintro rfl; rw [hl] at hb; cases hb
        split
        · have e1 : ∀ (t : State) x y, (t.setLive b.index x y).liveAt i = t.liveAt i := fun t x y => by rw [State.liveAt_setLive, if_neg hne]
          dsimp only
          split
          · unfold State.promote
            rw [State.raiseSession_liveAt, State.countSetup_eq _ _ _ _ (State.levelAt_setLive_self ..), State.modCell_liveAt, e1]
            rw [State.liveAt_eq_some, State.unbindAll_record, if_neg, ← State.liveAt_eq_some]
            · rw [State.subR, State.modCell_liveAt, e1]; exact hl
            · intro hm
              have hm2 := (List.mem_filter.1 hm).2
              simp only [decide_eq_true_eq] at hm2
              apply hm2
              show Handle.mk _ _ = Handle.mk _ _
              congr 1
              rw [State.subR, State.modCell_record, State.record_setLive, if_neg hne]; rfl
          · rw [e1]; exact hl
        · exact hl
      · exact hl

/-- The session of a newcomer, in the terms of the statements (R3). -/
theorem newSession_sessionOf (s : State) (r : Request) : newSession (s.classAt r.cls) r = s.sessionOf r := by
  unfold newSession State.sessionOf ServiceClass.admitLevel ServiceClass.vulnerableInUse Request.handoverFlag Request.admitTags clampDemand Request.admitDemand
  rfl

/-- Direct competition, in the terms of the statements (R45). -/
theorem State.competes_iff (s : State) (ses : Session) : s.competes ses = true ↔ s.outranksHead ses.key.cell ses := by
  unfold State.competes State.outranksHead
  cases hq : (s.cell ses.key.cell).queue with
  | nil => simp
  | cons i rest =>
    simp only [reduceCtorEq, false_or]
    constructor
    · intro h
      refine ⟨i, rest, rfl, ?_⟩
      split at h
      · rename_i h1; left; simpa using h1
      · right; simpa [virtualArrival] using h
    · rintro ⟨j, more, hj, h⟩
      simp at hj; obtain ⟨rfl, rfl⟩ := hj
      split
      · rfl
      · rename_i h1; rcases h with h | h
        · simp [h] at h1
        · simpa [virtualArrival] using h

/-- May preempt, in the terms of the statements (R35, R46). -/
theorem State.mayPreempt_iff (s : State) (ses : Session) : s.mayPreempt ses = true ↔ (s.classAt ses.cls).mayPreempt = true ∨ (s.classAt ses.cls).emergency = true ∨ ses.emergency = true := by
  unfold State.mayPreempt ServiceClass.mayPreemptInUse; simp [or_assoc]

/-- Plain admission asks for the headroom (R44, R48). -/
theorem State.fits_iff (s : State) (c : CellIx) (e : Bool) (d : Nat) : d ≤ (s.cell c).headroom e ↔ s.fits c e d := Iff.rfl

/-- A preemption decision, in the terms of the statements (R46, R50 to R52). -/
theorem State.takesVictims_iff (s : State) (c : CellIx) (ses : Session) (vs : List Nat) : s.takesVictims c ses vs ↔
   ¬ s.fits c ses.emergency ses.demand ∧ s.mayPreempt ses = true ∧ s.victimsFor c ses = some vs := by
  unfold State.takesVictims
  rw [← State.mayPreempt_iff]
  have e : (s.cell c).shortfall ses.emergency ses.demand = (s.cell c).use + ses.demand - (s.cell c).limitOf ses.emergency := rfl
  unfold State.victimsFor; simp only [e, show Config.maxVictims = 4 from rfl]
  refine and_congr Iff.rfl (and_congr Iff.rfl ?_)
  generalize s.victimWalk ses.level ((s.cell c).use + ses.demand - (s.cell c).limitOf ses.emergency) 4 0 (s.cell c).rankList = w
  obtain ⟨t, v⟩ := w
  constructor
  · rintro ⟨v', h1, h2⟩; simp only [Prod.mk.injEq] at h1; obtain ⟨rfl, rfl⟩ := h1; rw [if_pos h2]
  · intro h
    by_cases h1 : (s.cell c).use + ses.demand - (s.cell c).limitOf ses.emergency ≤ v
    · rw [if_pos h1] at h; simp at h; exact ⟨v, by rw [h], h1⟩
    · rw [if_neg h1] at h; simp at h

/-- The pool's count is the sum of the queue lengths over the cells (R70). -/
theorem State.poolCount_eq (s : State) : s.poolCount = ((List.finRange 16).map fun d => (s.cell d).queue.length).sum := by
  unfold State.poolCount
  refine congrArg List.sum (List.ext_getElem (by simp) fun n h1 h2 => ?_)
  simp [State.cell]

/-- A full queue, in the terms of the statements (R74, R75). -/
theorem State.queueFull_iff (s : State) (c : CellIx) : s.queueFull c = true ↔ s.full c := by
  unfold State.queueFull State.full
  rw [State.poolCount_eq, Bool.or_eq_true]; exact or_congr decide_eq_true_iff decide_eq_true_iff

/-- A newcomer that passes the checks meets no refusal (R40). -/
theorem State.admitRefusal_none {s : State} {p r} {l} (h : s.admitPasses p r) : (s.handOver l p).admitRefusal p r = none := by
  obtain ⟨h1, h2, h3, h4, h5, h6, h7⟩ := h
  have hc : cellRefusal (s.cell r.key.cell).state (s.classAt r.cls).emergency = none := by (rcases h3 with h1 | ⟨h1, h2⟩ <;> simp_all [cellRefusal])
  have lim : ∀ e, (s.cell r.key.cell).limit e = (s.cell r.key.cell).limitOf e := fun e => rfl
  have dem : clampDemand r.admitDemand = max 1 (r.halfAt 7).toNat := rfl
  have href : (s.classAt r.cls).refuseInUse = (if (s.classAt r.cls).emergency = true then 4 else (s.classAt r.cls).refuseLevel) := rfl
  simp only [State.admitRefusal, State.handOver_cell, State.handOver_classAt, State.handOver_findKey, lim, dem, href]
  rw [if_neg (by simp [h1])]; simp only [h2, hc]
  rw [if_neg (by omega), if_neg (by omega), if_neg (by omega), if_pos]
  unfold State.recordAvailable; simp [Config.reserveSize]
  cases he : (s.classAt r.cls).emergency <;> simp [he] at h7 ⊢ <;> omega

/-- A newcomer that passes the checks finds a FREE record (R8). -/
theorem State.admitPasses_head {s : State} {p r} (h : s.admitPasses p r) : ∃ i rest, s.freeList = i :: rest := by
  obtain ⟨-, -, -, -, -, -, h7⟩ := h
  cases hf : s.freeList with
  | nil => rw [hf] at h7; cases he : (s.classAt r.cls).emergency <;> simp [he] at h7
  | cons i rest => exact ⟨i, rest, rfl⟩

/-- What enqueueing a newcomer does (R74). -/
theorem State.enqueue_enqueued (S : State) (ses : Session) (i : Nat) (rest : List Nat) (hf : S.freeList = i :: rest) : Enqueued S (S.enqueue ses) i ses := by
  obtain ⟨t1, t2, t3, t4, t5, t6⟩ := S.takeRecord_taken ses (S.queuedStage ses) i rest hf
  have hnf : S.nextFree = i := by unfold State.nextFree; rw [hf]; rfl
  unfold State.enqueue; rw [hnf]
  obtain ⟨T, hT⟩ : ∃ T, T = S.takeRecord ses (S.queuedStage ses) := ⟨_, rfl⟩
  rw [← hT] at t1 t2 t3 t4 t5 t6 ⊢
  have hTc : ∀ d, T.cell d = S.cell d := by intro d; rw [State.cell, t4]; rfl
  refine ⟨⟨t1.1, t1.2.1, t1.2.2.1, t1.2.2.2⟩, fun j hj => t2 j hj, ?_, ?_, t5, ?_, t3⟩
  · simp only [State.cell_modCell_self, hTc]; rfl
  · intro d hd; rw [State.cell_modCell_ne _ _ _ _ (by simpa using hd), hTc]
  · refine t6.trans ?_; exact (still_modCell T ses.key.cell (fun k => { k with queue := queueInsert T.emergencyAt T.virtualAt i k.queue, enqueueOrder := k.enqueueOrder ++ [i] }) (fun _ => rfl)).1

/-- A queue of emergency records has no record to displace (R75). -/
theorem State.lastOrdinary_none (s : State) (c : CellIx) (h : ∀ i ∈ (s.cell c).queue, s.emergencyAt i = true) : s.lastOrdinary c = none := by
  unfold State.lastOrdinary; rw [List.find?_eq_none]; intro x hx; simp at hx; simp [h x hx]

/-- The record a queue loses to displacement: the last ordinary one (R75). -/
theorem State.lastOrdinary_some (s : State) (c : CellIx) (a b j) (hq : (s.cell c).queue = a ++ j :: b) (hb : ∀ i ∈ b, s.emergencyAt i = true) (hj : s.emergencyAt j = false) : s.lastOrdinary c = some j := by
  unfold State.lastOrdinary; rw [hq, List.find?_eq_some_iff_append]
  refine ⟨by simp [hj], b.reverse, a.reverse, by simp, ?_⟩
  intro x hx; simp at hx; simp [hb x hx]

end Sys2Proof.Machine
end

