-- ==== Sys2Proof/Laws/Backlog.lean ====
section
/-! SUPPORT. What leaving a backlog does, and the entry to DRAINING. -/

namespace Sys2Proof.Machine

/-- A record whose backlog entry left (R13). -/
theorem State.dropPending_record (s : State) (i j : Nat) : (s.dropPending i).record j = if j = i then Record.mk (s.record i).generation (if (s.record i).life = .spent then .free else (s.record i).life) none else s.record j := by
  unfold State.dropPending
  by_cases h : (s.record i).life = .spent
  · rw [if_pos h]; show (s.setRecord i _).record j = _; rw [State.record_setRecord]; simp [h]
  · rw [if_neg h, State.record_setPending]; simp [h]

/-- The free list after a backlog entry of a record left (R13). -/
theorem State.dropPending_freeList (s : State) (i : Nat) : (s.dropPending i).freeList = s.freeList ++ (if (s.record i).life = .spent then [i] else []) := by
  unfold State.dropPending
  by_cases h : (s.record i).life = .spent
  · rw [if_pos h]; simp [h]; rfl
  · rw [if_neg h]; simp [h]

/-- What one entry that leaves the backlog changes (R13, R156). -/
theorem State.dropEntry_left (s : State) (e : BacklogEntry) : BacklogLeft s (s.dropEntry e) [e] := by
  cases e with
  | record i =>
    refine ⟨fun j => ?_, fun c => ?_, ?_, ?_⟩
    · show (s.dropPending i).record j = _
      rw [State.dropPending_record]; by_cases h : j = i
      · subst h; simp
      · simp [h]
    · show (s.dropPending i).cell c = _; simp; unfold State.dropPending; split <;> rfl
    · show (s.dropPending i).freeList = _; rw [State.dropPending_freeList]; by_cases h : (s.record i).life = .spent <;> simp [h]
    · show (s.dropPending i).directory = _; unfold State.dropPending; split <;> rfl
  | cell c =>
    refine ⟨fun j => by simp; rfl, fun d => ?_, by simp; rfl, rfl⟩
    show (s.modCell c _).cell d = _
    rw [State.cell_modCell]; by_cases h : d = c
    · subst h; simp
    · simp [h]

/-- Entries that leave one after another. -/
theorem BacklogLeft.trans {s t u : State} {a b : List BacklogEntry} (h1 : BacklogLeft s t a) (h2 : BacklogLeft t u b) (hd : ∀ e ∈ b, e ∉ a) : BacklogLeft s u (a ++ b) := by
  obtain ⟨a1, a2, a3, a4⟩ := h1; obtain ⟨b1, b2, b3, b4⟩ := h2
  refine ⟨fun i => ?_, fun c => ?_, ?_, b4.trans a4⟩
  · rw [b1 i]
    by_cases h : BacklogEntry.record i ∈ b
    · have := a1 i; rw [if_neg (hd _ h)] at this; simp [h, this]
    · rw [if_neg h, a1 i]; simp [h]
  · rw [b2 c]
    by_cases h : BacklogEntry.cell c ∈ b
    · have := a2 c; rw [if_neg (hd _ h)] at this; simp [h, this]
    · rw [if_neg h, a2 c]; simp [h]
  · rw [b3, a3, List.filterMap_append, List.append_assoc]
    congr 2
    apply List.filterMap_congr
    intro e he
    cases e with
    | record i => simp only; have := a1 i; rw [if_neg (hd _ he)] at this; rw [this]
    | cell c => rfl

/-- No entry left. -/
theorem BacklogLeft.nil (s : State) : BacklogLeft s s [] := ⟨fun i => by simp, fun c => by simp, by simp, rfl⟩

/-- What the discard of a backlog changes (R147). -/
theorem State.dropEntries_left (es : List BacklogEntry) : ∀ s : State, es.Nodup → BacklogLeft s (s.dropEntries es) es := by
  induction es with
  | nil => intro s _; exact BacklogLeft.nil s
  | cons e rest ih =>
    intro s h
    rw [List.nodup_cons] at h
    exact BacklogLeft.trans (a := [e]) (State.dropEntry_left s e) (ih (s.dropEntry e) h.2) (by intro x hx hx2; simp at hx2; subst hx2; exact h.1 hx)

/-- What one entry that leaves the backlog does not change. -/
theorem State.dropEntry_frame (s : State) (e : BacklogEntry) : { s.dropEntry e with records := s.records, freeList := s.freeList, cells := s.cells } = s := by
  cases e with
  | record i => show { s.dropPending i with records := s.records, freeList := s.freeList, cells := s.cells } = s; unfold State.dropPending; split <;> rfl
  | cell c => rfl

/-- What the discard of a backlog does not change. -/
theorem State.dropEntries_frame (es : List BacklogEntry) : ∀ s : State, { s.dropEntries es with records := s.records, freeList := s.freeList, cells := s.cells } = s := by
  induction es with
  | nil => intro s; rfl
  | cons e rest ih =>
    intro s
    have h := ih (s.dropEntry e)
    have h2 := State.dropEntry_frame s e
    show ({ (s.dropEntry e).dropEntries rest with records := s.records, freeList := s.freeList, cells := s.cells } : State) = s
    rw [← h] at h2
    exact h2

/-- What the entry of a port to DRAINING does (R147). -/
theorem State.enterDraining_enters (s : State) (p : PortIx) (h : (s.port p).backlog.Nodup) : EntersDraining s (s.enterDraining p) p := by
  unfold State.enterDraining State.clearNotices
  obtain ⟨X, hX⟩ : ∃ X, X = s.modPort p fun q => { q with urgentLane := [], normalLane := [], transmit := q.transmit ++ ((s.port p).urgentLane ++ (s.port p).normalLane).map fun r => Response.mk r.kind r.tag .portDraining false false false .empty } := ⟨_, rfl⟩
  simp only; rw [← hX]
  have hb : (X.port p).backlog = (s.port p).backlog := by rw [hX, State.port_modPort_self]
  rw [hb]
  have fr := State.dropEntries_frame (s.port p).backlog X
  have hl := State.dropEntries_left (s.port p).backlog X h
  obtain ⟨Y, hY⟩ : ∃ Y, Y = X.dropEntries (s.port p).backlog := ⟨_, rfl⟩
  rw [← hY] at fr hl ⊢
  have hp : ∀ o, Y.port o = X.port o := fun o => by have : Y.ports = X.ports := (by have h := congrArg State.ports fr; exact h); unfold State.port; rw [this]
  have hbg : Y.background = X.background := (by have h := congrArg State.background fr; exact h)
  have hXl : BacklogLeft X Y (s.port p).backlog ↔ BacklogLeft s Y (s.port p).backlog := by rw [hX]; rfl
  refine ⟨?_, fun o ho => ?_, ?_, ?_, ?_, ?_⟩
  · rw [State.chooseJob_port, State.port_modPort_self, State.port_modPort_self, hp, hX, State.port_modPort_self]; rfl
  · rw [State.chooseJob_port, State.port_modPort_ne _ _ _ _ (by simpa using ho), State.port_modPort_ne _ _ _ _ (by simpa using ho), hp, hX, State.port_modPort_ne _ _ _ _ (by simpa using ho)]
  · exact hXl.1 hl
  · exact State.chooseJob_chooses ((congrArg Background.chosen hbg).trans (by rw [hX]; rfl))
  · obtain ⟨j, hj⟩ : ∃ j, j = (State.chooseJob ((Y.modPort p fun q => { q.clearRing with backlog := [] }).modPort p
        fun q => { q with state := .draining, drainFlag := true })).chosen := ⟨_, rfl⟩
    rw [← hj]
    have : ({ Y.background with chosen := j } : Background) = { s.background with chosen := j } := by rw [hbg, hX]; rfl
    rw [← this, hj]; rfl
  · have e1 : Y.eventRaw = X.eventRaw := ((by have h := congrArg State.eventRaw fr; exact h))
    have e2 : Y.interruptLine = X.interruptLine := ((by have h := congrArg State.interruptLine fr; exact h))
    exact ⟨e1.trans (by rw [hX]; rfl), e2.trans (by rw [hX]; rfl)⟩

/-- Handing a request over leaves the backlogs. -/
theorem State.handOver_backlog (s : State) (l p o) : ((s.handOver l p).port o).backlog = (s.port o).backlog := by
  unfold State.handOver
  rw [State.port_modPort]; split
  · rename_i h; subst h; cases l <;> rfl
  · cases l <;> rfl

/-- What the moves from backlog to ring do (R156, R158). -/
theorem State.refillRing_moves (p : PortIx) : ∀ (n : Nat) (s : State), (s.port p).backlog.length ≤ n → (∀ i, .record i ∈ (s.port p).backlog → (s.record i).pending ≠ none) → (s.port p).backlog.Nodup →
    ∀ m, m = min ((s.port p).ringSize - (s.port p).ring.length) (s.port p).backlog.length → ∃ moved : List Notice,
      moved.map some = ((s.port p).backlog.take m).map s.entryNotice
      ∧ (s.refillRing p n).port p = { s.port p with ring := (s.port p).ring ++ moved, backlog := (s.port p).backlog.drop m }
      ∧ BacklogLeft s (s.refillRing p n) ((s.port p).backlog.take m) ∧ PortsKept s (s.refillRing p n) [p]
      ∧ { s.refillRing p n with records := s.records, freeList := s.freeList, cells := s.cells, ports := s.ports } = s := by
  intro n
  induction n with
  | zero =>
    rintro s h1 h2 h3 m rfl
    have : (s.port p).backlog = [] := List.length_eq_zero_iff.1 (by omega)
    refine ⟨[], by simp [this], ?_, by rw [this]; simp; exact BacklogLeft.nil s, fun _ _ => rfl, rfl⟩
    show s.port p = _; rw [this]; simp; rw [← this]
  | succ n ih =>
    rintro s h1 h2 h3 m rfl
    unfold State.refillRing
    cases hb : (s.port p).backlog with
    | nil =>
      refine ⟨[], by simp, ?_, by simp; exact BacklogLeft.nil s, fun _ _ => rfl, rfl⟩
      show s.port p = _; simp; rw [← hb]
    | cons e rest =>
      simp only
      by_cases hr : (s.port p).ring.length < (s.port p).ringSize
      · rw [if_pos hr]
        have hen : ∃ x, s.entryNotice e = some x := by
          cases e with
          | cell c => exact ⟨_, rfl⟩
          | record i =>
            have := h2 i (by rw [hb]; simp)
            cases hp : (s.record i).pending with
            | none => exact absurd hp this
            | some v => exact Option.isSome_iff_exists.1 (by simp [State.entryNotice, hp])
        obtain ⟨x, hx⟩ := hen
        obtain ⟨X, hX⟩ : ∃ X, X = s.modPort p fun q => { q with backlog := rest, ring := q.ring ++ (s.entryNotice e).toList } := ⟨_, rfl⟩
        rw [← hX]
        have fr := State.dropEntry_frame X e
        have hl := State.dropEntry_left X e
        obtain ⟨Y, hY⟩ : ∃ Y, Y = X.dropEntry e := ⟨_, rfl⟩
        rw [← hY] at fr hl ⊢
        have hp : ∀ o, Y.port o = X.port o := fun o => by have : Y.ports = X.ports := (by have h := congrArg State.ports fr; exact h); unfold State.port; rw [this]
        have hYp : Y.port p = { s.port p with backlog := rest, ring := (s.port p).ring ++ [x] } := by rw [hp, hX, State.port_modPort_self, hx]; rfl
        have hlY : BacklogLeft s Y [e] := by rw [hX] at hl; exact hl
        rw [hb, List.nodup_cons] at h3
        have key : ∀ f, f ∈ rest → Y.entryNotice f = s.entryNotice f := by
          intro f hf
          have hne : f ≠ e := fun h => h3.1 (h ▸ hf)
          cases f with
          | record i => unfold State.entryNotice; simp only; rw [hlY.1 i, if_neg (by simpa using hne)]
          | cell c =>
            unfold State.entryNotice; simp only; rw [hlY.2.1 c]; split <;> rfl
        obtain ⟨moved, m1, m2, m3, m4, m5⟩ := ih Y (by rw [hYp]; rw [hb] at h1; simpa using h1)
          (by rw [hYp]; intro i hi; rw [hlY.1 i, if_neg]
              · exact h2 i (by rw [hb]; exact List.mem_cons_of_mem _ hi)
              · intro h; simp at h; exact h3.1 (h ▸ hi))
          (by rw [hYp]; exact h3.2) _ rfl
        rw [hYp] at m1 m2 m3
        have hm : min ((s.port p).ringSize - (s.port p).ring.length) (e :: rest).length = min ((s.port p).ringSize - ((s.port p).ring ++ [x]).length) rest.length + 1 := by
          simp; omega
        rw [hm]
        refine ⟨x :: moved, ?_, ?_, ?_, ?_, ?_⟩
        · simp only [List.take_succ_cons, List.map_cons, m1, hx]
          congr 1
          apply List.map_congr_left
          intro f hf; exact key f (List.mem_of_mem_take hf)
        · rw [m2]; simp
        · rw [List.take_succ_cons]
          exact BacklogLeft.trans (a := [e]) hlY m3 (by intro f hf h; simp at h; subst h; exact h3.1 (List.mem_of_mem_take hf))
        · intro o ho; rw [m4 o ho, hp, hX, State.port_modPort_ne _ _ _ _ (by simpa using ho)]
        · have e1 : ({ X with ports := s.ports } : State) = s := by rw [hX]; rfl
          have e2 : ({ Y with records := s.records, freeList := s.freeList, cells := s.cells, ports := s.ports } : State) = s := by
            have := congrArg (fun z : State => ({ z with records := s.records, freeList := s.freeList, cells := s.cells, ports := s.ports } : State)) fr
            simp only at this; rw [this, hX]; rfl
          have := congrArg (fun z : State => ({ z with records := s.records, freeList := s.freeList, cells := s.cells, ports := s.ports } : State)) m5
          simp only at this; rw [this]; exact e2
      · rw [if_neg hr]
        have hm : min ((s.port p).ringSize - (s.port p).ring.length) (e :: rest).length = 0 := by omega
        rw [hm]
        refine ⟨[], by simp, ?_, by simp; exact BacklogLeft.nil s, fun _ _ => rfl, rfl⟩
        show s.port p = _; simp; rw [← hb]

end Sys2Proof.Machine
end

