-- ==== Sys2Proof/Laws/Deadlines.lean ====
section
/-! SUPPORT. Lemmas about what falls due at a tick: which events it is, that none stands there twice, that an open order holds the same events, and the runs that take them. -/

namespace Sys2Proof.Machine

/-- Each event that falls due is taken by its own command. -/
theorem State.exec_take (s : State) (e : Expiry) : exec e.command s = .next (s.take e) := by cases e <;> rfl

/-- A run of such commands takes the events one after another. -/
theorem State.runs_take (L : List Expiry) : ∀ (s : State) (rest : List Instr), s.runs (L.map Expiry.command ++ rest) = (L.foldl State.take s).runs rest := by
  induction L with
  | nil => intro s rest; rfl
  | cons e L ih => intro s rest; rw [List.map_cons, List.cons_append, List.foldl_cons, ← ih]; show (match exec e.command s with | .next t => t.runs _ | _ => none) = _; rw [State.exec_take]

/-- A run of DRAIN_JOB_STARTs starts the drains one after another (R140). -/
theorem State.runs_start (n : Nat) : ∀ s : State, s.runs (List.replicate n .drainJobStart) = some (s.startDrains n) := by
  induction n with
  | zero => intro s; rfl
  | succ n ih => intro s; rw [List.replicate_succ]; show s.startDrain.runs _ = _; rw [ih]; rfl

/-- What is due of one record is the expiry whose command happens there (R116). -/
theorem State.dueRecord_eq_some (s : State) (i : Nat) (e : Expiry) : s.dueRecord i = some e ↔ (e = .setupGuard i ∨ e = .grace i ∨ e = .wait i) ∧ happens e.command s = true := by
  have key : (e = .setupGuard i ∨ e = .grace i ∨ e = .wait i) ∧ happens e.command s = true ↔
      e = .setupGuard i ∧ s.deadlineAt i = some (s.tick, 1) ∨ e = .grace i ∧ s.deadlineAt i = some (s.tick, 2)
        ∨ e = .wait i ∧ s.deadlineAt i = some (s.tick, 3) := by
    constructor
    · rintro ⟨rfl | rfl | rfl, h⟩ <;> simp_all [Expiry.command, happens]
    · rintro (⟨rfl, h⟩ | ⟨rfl, h⟩ | ⟨rfl, h⟩) <;> simp [Expiry.command, happens, h]
  rw [key]
  unfold State.dueRecord State.deadlineAt
  cases s.liveAt i with
  | none => simp
  | some x =>
    obtain ⟨ses, st⟩ := x
    cases st with
    | setup a d => cases d <;> simp [Stage.deadline?, and_comm, eq_comm]
    | _ => simp [Stage.deadline?, and_comm, eq_comm]

/-- What is due at the tick is what a command of its name would take (R116, R124, R161). -/
theorem State.mem_due (s : State) (e : Expiry) : e ∈ s.due ↔ happens e.command s = true := by
  unfold State.due
  rw [List.mem_append, List.mem_append, List.mem_filterMap, List.mem_map, List.mem_map]
  constructor
  · rintro ((⟨i, -, h⟩ | ⟨p, h, rfl⟩) | ⟨p, h, rfl⟩)
    · exact ((State.dueRecord_eq_some s i e).1 h).2
    · exact (List.mem_filter.1 h).2
    · exact (List.mem_filter.1 h).2
  · intro h
    have lv : ∀ i, s.deadlineAt i ≠ none → i ∈ s.records.map Prod.fst := by
      intro i hi; apply State.mem_keys; intro hf; apply hi; unfold State.deadlineAt State.liveAt; rw [hf]
    cases e with
    | setupGuard i => refine .inl (.inl ⟨i, lv i ?_, (State.dueRecord_eq_some s i _).2 ⟨by simp, h⟩⟩); intro hn; simp [Expiry.command, happens, hn] at h
    | grace i => refine .inl (.inl ⟨i, lv i ?_, (State.dueRecord_eq_some s i _).2 ⟨by simp, h⟩⟩); intro hn; simp [Expiry.command, happens, hn] at h
    | wait i => refine .inl (.inl ⟨i, lv i ?_, (State.dueRecord_eq_some s i _).2 ⟨by simp, h⟩⟩); intro hn; simp [Expiry.command, happens, hn] at h
    | supervision p => exact .inl (.inr ⟨p, List.mem_filter.2 ⟨List.mem_finRange _, h⟩, rfl⟩)
    | pulse p => exact .inr ⟨p, List.mem_filter.2 ⟨List.mem_finRange _, h⟩, rfl⟩

/-- An expiry names its record. -/
theorem State.dueRecord_inj (s : State) (i j : Nat) (e : Expiry) (h1 : s.dueRecord i = some e) (h2 : s.dueRecord j = some e) : i = j := by
  obtain ⟨a, -⟩ := (State.dueRecord_eq_some s i e).1 h1
  obtain ⟨b, -⟩ := (State.dueRecord_eq_some s j e).1 h2
  rcases a with rfl | rfl | rfl <;> simpa using b

/-- Nothing is due twice. -/
theorem State.due_nodup (s : State) (h : s.storeCanonical = true) : s.due.Nodup := by
  unfold State.due
  have hk : (s.records.map Prod.fst).Nodup := by
    unfold State.storeCanonical at h; simp only [Bool.and_eq_true] at h
    have := (sparseSorted_iff _).1 h.1.1
    rw [List.nodup_iff_pairwise_ne, List.pairwise_map]
    exact this.imp fun h => Nat.ne_of_lt h
  rw [List.nodup_append, List.nodup_append]
  refine ⟨⟨?_, ?_, ?_⟩, ?_, ?_⟩
  · refine List.Nodup.filterMap (fun i j e h1 h2 => State.dueRecord_inj s i j e h1 h2) hk
  · exact ((List.nodup_finRange 4).filter _).map (fun a b h => by cases h; rfl)
  · intro a ha b hb hab; subst hab
    obtain ⟨i, -, hi⟩ := List.mem_filterMap.1 ha; obtain ⟨p, -, rfl⟩ := List.mem_map.1 hb
    have := ((State.dueRecord_eq_some s i _).1 hi).1; simp at this
  · exact ((List.nodup_finRange 4).filter _).map (fun a b h => by cases h; rfl)
  · intro a ha b hb hab; subst hab
    obtain ⟨p, -, rfl⟩ := List.mem_map.1 hb
    rcases List.mem_append.1 ha with ha | ha
    · obtain ⟨i, -, hi⟩ := List.mem_filterMap.1 ha
      have := ((State.dueRecord_eq_some s i _).1 hi).1; simp at this
    · obtain ⟨q, -, hq⟩ := List.mem_map.1 ha; cases hq

/-- An open order holds the same events (log entries 4 and 8). -/
theorem openOrder_perm {α : Type} (n : Nat) (l : List α) : (openOrder n l).Perm l := by
  induction l generalizing n with
  | nil => exact List.Perm.refl _
  | cons x rest ih =>
    cases rest with
    | nil => exact List.Perm.refl _
    | cons y rest =>
      unfold openOrder
      have h := ih (n + 1)
      refine (List.perm_insertIdx x _ ?_).trans (List.Perm.cons x h)
      rw [h.length_eq]; simp only [List.length_cons]; have := Nat.mod_lt (Config.openChoice n) (show rest.length + 2 > 0 by omega); omega

/-- Where no drain waits for its start, starting changes nothing (R140). -/
theorem State.startDrain_of_idle {s : State} (h : happens .drainJobStart s = false) : s.startDrain = s := by
  unfold State.startDrain
  have : (s.job.isNone && s.nextJob.isSome) = false := h
  cases hj : s.job with
  | some j => rfl
  | none => cases hn : s.nextJob with
    | none => rfl
    | some j => rw [hj, hn] at this; cases this

/-- Nor does starting again. -/
theorem State.startDrains_of_idle {s : State} (h : happens .drainJobStart s = false) : ∀ n, s.startDrains n = s := by
  intro n; induction n with
  | zero => rfl
  | succ n ih => unfold State.startDrains; rw [State.startDrain_of_idle h, ih]

end Sys2Proof.Machine
end

