-- ==== Sys2Proof/Laws/Service.lean ====
section
/-! SUPPORT. Victims, displacement, queue service and the drain order. -/

namespace Sys2Proof.Machine

/-- What the taking of one victim does (R52). -/
theorem State.takeVictim_effect (rq : Handle) (c : CellIx) (p : PortIx) (s : State) (j : Nat) (v : Session) (st : Stage) (hl : s.liveAt j = some (v, st)) (hc : v.key.cell = c) (hp : p = (s.cell c).owner) :
    let t := State.takeVictim rq c s j
    t.record j = Record.mk (s.record j).generation (.live v (.ceding st.stamp (some rq) (after s.tick v.grace))) (s.pendingAfter p 0 j (s.noticeOf j v .releaseOrder .preempted))
    ∧ RecordsKept s t [j] ∧ StoreListsKept s t
    ∧ t.cell c = { s.cell c with countA := (s.cell c).countA - v.demand, countC := (s.cell c).countC + v.demand, rankList := (s.cell c).rankList.filter fun i => decide (i ≠ j) }
    ∧ CellsKept s t [c] ∧ PortsKept s t [p] ∧ Still s t ∧ Delivers s t p [s.ringNotice j v .releaseOrder .preempted] := by
  intro t
  obtain ⟨X, hX⟩ : ∃ X, X = ((((s.leaveRank c j).subA c v.demand).addC c v.demand).setLive j v (.ceding st.stamp (some rq) (after s.tick v.grace))) := ⟨_, rfl⟩
  have ht : t = X.raiseSession j .releaseOrder .preempted := by
    show State.takeVictim rq c s j = _
    unfold State.takeVictim; rw [hl, hX]
  have hXl : X.liveAt j = some (v, .ceding st.stamp (some rq) (after s.tick v.grace)) := by rw [hX, State.liveAt_setLive, if_pos rfl]
  have hXc : X.cell c = { s.cell c with countA := (s.cell c).countA - v.demand, countC := (s.cell c).countC + v.demand, rankList := (s.cell c).rankList.filter fun i => decide (i ≠ j) } := by
    rw [hX, State.setLive_cell, State.addC, State.cell_modCell_self, State.subA, State.cell_modCell_self, State.leaveRank, State.cell_modCell_self]
  have hXne : ∀ d, d ≠ c → X.cell d = s.cell d := by
    intro d hd; rw [hX, State.setLive_cell, State.addC, State.cell_modCell_ne _ _ _ _ hd, State.subA, State.cell_modCell_ne _ _ _ _ hd, State.leaveRank, State.cell_modCell_ne _ _ _ _ hd]
  have hXp : ∀ o, X.port o = s.port o := fun o => by rw [hX]; rfl
  have hXst : Still s X := by rw [hX]; exact (((still_leaveRank ..).trans (still_subA ..)).trans (still_addC ..)).trans (still_setLive ..)
  have hXr : ∀ i, X.record i = if i = j then { s.record j with life := .live v (.ceding st.stamp (some rq) (after s.tick v.grace)) } else s.record i := by
    intro i; rw [hX, State.record_setLive]; rfl
  have hXe : ∀ e, X.isPending e ↔ s.isPending e := State.isPending_congr
    (fun i => by rw [hXr]; split
                 · next h => rw [h]
                 · rfl)
    (fun d => by by_cases hd : d = c
                 · rw [hd, hXc]
                 · rw [hXne d hd])
  have hown : (X.cell v.key.cell).owner = p := by rw [hc, hp]; exact hXst.1.cellOwner c
  have hself := X.raiseSession_record_self j .releaseOrder .preempted v _ hXl
  have hdel := X.raiseSession_delivers j .releaseOrder .preempted v _ hXl p hown.symm
  have hrn : X.ringNotice j v .releaseOrder .preempted = s.ringNotice j v .releaseOrder .preempted := by unfold State.ringNotice State.handleOf; rw [hXr, if_pos rfl]
  have hno : X.noticeOf j v .releaseOrder .preempted = s.noticeOf j v .releaseOrder .preempted := by unfold State.noticeOf; rw [hXr, if_pos rfl]
  have hpa : X.pendingAfter p 0 j (s.noticeOf j v .releaseOrder .preempted) = s.pendingAfter p 0 j (s.noticeOf j v .releaseOrder .preempted) := by
    unfold State.pendingAfter; rw [hXp, hXr, if_pos rfl]
  rw [ht]
  refine ⟨?_, ?_, ⟨?_, ?_⟩, ?_, ?_, ?_, ?_, ?_⟩
  · rw [hself, hown, hno, hpa, hXr, if_pos rfl]
  · intro i hi; rw [(X.raiseSession_record j i _ _).2.2 (by simpa using hi), hXr, if_neg (by simpa using hi)]
  · rw [State.raiseSession_freeList, hX]; rfl
  · rw [State.raiseSession_directory, hX]; rfl
  · rw [State.raiseSession_cell, hXc]
  · intro d hd; rw [State.raiseSession_cell, hXne d (by simpa using hd)]
  · intro o ho; rw [X.raiseSession_port_ne j _ _ v _ hXl o (by rw [hown]; simpa using ho), hXp]
  · exact hXst.trans (still_raiseSession ..)
  · rw [hrn] at hdel; exact Delivers.congr (hXp p).symm rfl (fun e => (hXe e).symm) (fun _ => Iff.rfl) hdel

/-- What the taking of a decision's victims does, in their order (R52). -/
theorem State.takeVictims_effect (rq : Handle) (c : CellIx) (p : PortIx) : ∀ (vs : List Nat) (s : State), vs.Nodup → (∀ j ∈ vs, ∃ v st, s.liveAt j = some (v, st) ∧ v.key.cell = c) → p = (s.cell c).owner →
    let t := s.takeVictims rq c vs
    (∀ n j, vs[n]? = some j → ∃ v st, s.liveAt j = some (v, st) ∧ t.record j = Record.mk (s.record j).generation (.live v (.ceding st.stamp (some rq) (after s.tick v.grace))) (s.pendingAfter p n j (s.noticeOf j v .releaseOrder .preempted)))
    ∧ RecordsKept s t vs ∧ StoreListsKept s t
    ∧ t.cell c = { s.cell c with countA := (s.cell c).countA - (vs.map s.demandAt).sum, countC := (s.cell c).countC + (vs.map s.demandAt).sum, rankList := (s.cell c).rankList.filter fun i => decide (i ∉ vs) }
    ∧ CellsKept s t [c] ∧ PortsKept s t [p] ∧ Still s t
    ∧ Delivers s t p (vs.filterMap fun j => (s.liveAt j).map fun x => s.ringNotice j x.1 .releaseOrder .preempted) := by
  intro vs
  induction vs with
  | nil =>
    intro s _ _ _
    refine ⟨by intro n j h; simp at h, fun _ _ => rfl, ⟨rfl, rfl⟩, ?_, fun _ _ => rfl, fun _ _ => rfl, Still.refl _, Delivers.refl rfl fun _ => Iff.rfl⟩
    show s.cell c = _; simp
  | cons j rest ih =>
    intro s hnd hlive hp
    rw [List.nodup_cons] at hnd
    obtain ⟨v, st, hl, hc⟩ := hlive j List.mem_cons_self
    obtain ⟨a1, a2, a3, a4, a5, a6, a7, a8⟩ := State.takeVictim_effect rq c p s j v st hl hc hp
    obtain ⟨X, hX⟩ : ∃ X, X = State.takeVictim rq c s j := ⟨_, rfl⟩
    simp only at a1 a2 a3 a4 a5 a6 a7 a8
    rw [← hX] at a1 a2 a3 a4 a5 a6 a7 a8
    have hXr : ∀ i ∈ rest, X.record i = s.record i := fun i hi => a2 i (by simp; rintro rfl; exact hnd.1 hi)
    have hXl : ∀ i ∈ rest, X.liveAt i = s.liveAt i := fun i hi => by unfold State.liveAt; rw [hXr i hi]
    obtain ⟨b1, b2, b3, b4, b5, b6, b7, b8⟩ := ih X hnd.2 (fun i hi => by rw [hXl i hi]; exact hlive i (List.mem_cons_of_mem _ hi)) (by rw [hp]; exact (a7.1.cellOwner c).symm)
    simp only at b1 b2 b3 b4 b5 b6 b7 b8
    have ht : s.takeVictims rq c (j :: rest) = X.takeVictims rq c rest := by rw [hX]; rfl
    have hdem : rest.map X.demandAt = rest.map s.demandAt := List.map_congr_left fun i hi => by unfold State.demandAt; rw [hXl i hi]
    have hdj : s.demandAt j = v.demand := by unfold State.demandAt; rw [hl]
    have htick : X.tick = s.tick := a7.1.tick
    simp only; rw [ht]
    refine ⟨?_, ?_, ⟨b3.1.trans a3.1, b3.2.trans a3.2⟩, ?_, ?_, ?_, a7.trans b7, ?_⟩
    · intro n i hn
      cases n with
      | zero =>
        simp at hn; subst hn
        refine ⟨v, st, hl, ?_⟩
        rw [b2 j hnd.1, a1]
      | succ n =>
        simp at hn
        have hi : i ∈ rest := List.mem_of_getElem? hn
        obtain ⟨u, ut, h1, h2⟩ := b1 n i hn
        refine ⟨u, ut, by rw [← hXl i hi]; exact h1, ?_⟩
        rw [h2, hXr i hi, htick]
        congr 1
        unfold State.pendingAfter State.noticeOf
        rw [hXr i hi]
        by_cases hs : (s.port p).state = .draining
        · rw [if_pos (.inl (by rw [a7.1.portState]; exact hs)), if_pos (.inl hs)]
        · have hroom := a8.room hs
          have hs' : (X.port p).state ≠ .draining := by rw [a7.1.portState]; exact hs
          simp only [hs, hs', false_or, hroom, List.length_singleton]
          have : (n < (s.port p).room - 1) ↔ (n + 1 < (s.port p).room) := by omega
          simp only [this]
    · intro i hi
      simp at hi
      rw [b2 i hi.2, a2 i (by simpa using hi.1)]
    · rw [b4, a4, hdem]
      simp only [List.map_cons, List.sum_cons, hdj, Nat.sub_sub, Nat.add_assoc, List.filter_filter]
      congr 2
      funext i
      simp only [List.mem_cons, not_or]
      rw [Bool.eq_iff_iff]; simp; tauto
    · intro d hd; rw [b5 d hd, a5 d hd]
    · intro o ho; rw [b6 o ho, a6 o ho]
    · have : (j :: rest).filterMap (fun j => (s.liveAt j).map fun x => s.ringNotice j x.1 .releaseOrder .preempted) = [s.ringNotice j v .releaseOrder .preempted] ++ rest.filterMap (fun j => (X.liveAt j).map fun x => X.ringNotice j x.1 .releaseOrder .preempted) := by
        rw [List.filterMap_cons, hl]; simp only [Option.map_some, List.cons_append, List.nil_append]
        congr 1
        apply List.filterMap_congr
        intro i hi
        rw [hXl i hi]
        unfold State.ringNotice State.handleOf; rw [hXr i hi]
      rw [this]; exact a8.trans b8

/-- What a displacement does (R75, R77). -/
theorem State.displace_effect (s : State) (c : CellIx) (p : PortIx) (j : Nat) (v : Session) (st : Stage) (hl : s.liveAt j = some (v, st)) (hc : v.key.cell = c) (hp : p = (s.cell c).owner) :
    let t := s.displace j
    t.record j = Record.mk (nextGeneration (s.record j).generation) (if (s.pendingAfter p 0 j (s.noticeOf j v .expired .displaced)).isSome then .spent else .free) (s.pendingAfter p 0 j (s.noticeOf j v .expired .displaced))
    ∧ RecordsKept s t [j] ∧ t.freeList = (if (s.pendingAfter p 0 j (s.noticeOf j v .expired .displaced)).isSome then s.freeList else s.freeList ++ [j])
    ∧ t.cell c = (s.cell c).without j ∧ CellsKept s t [c] ∧ PortsKept s t [p] ∧ Still s t ∧ Delivers s t p [s.ringNotice j v .expired .displaced]
    ∧ KeyDropped s t v.key := by
  intro t
  have hown : (s.cell v.key.cell).owner = p := by rw [hc, hp]
  have hself := s.raiseSession_record_self j .expired .displaced v st hl
  rw [hown] at hself
  have hdel := s.raiseSession_delivers j .expired .displaced v st hl p hown.symm
  have hrf := State.retire_retiredFrom (s.raiseSession j .expired .displaced) j v st (by rw [State.raiseSession_liveAt]; exact hl)
  have hpe : ∀ e, t.isPending e ↔ (s.raiseSession j .expired .displaced).isPending e := hrf.isPending
  obtain ⟨⟨r1, r2, r3⟩, r4, r5, r6, r7, r8⟩ := hrf
  rw [hself] at r1 r2
  have hport : ∀ o, t.port o = (s.raiseSession j .expired .displaced).port o := fun o => by
    have : t.ports = (s.raiseSession j .expired .displaced).ports := r7
    unfold State.port; rw [this]
  refine ⟨r1, ?_, ?_, ?_, ?_, ?_, (still_raiseSession ..).trans r8, Delivers.congr rfl (hport p) (fun _ => Iff.rfl) hpe hdel, ?_, ?_⟩
  · intro i hi; rw [← (s.raiseSession_record j i .expired .displaced).2.2 (by simpa using hi)]; exact r4 i hi
  · rw [State.raiseSession_freeList] at r2; exact r2
  · rw [hc] at r5; rw [State.raiseSession_cell] at r5; exact r5
  · intro d hd; rw [← s.raiseSession_cell j .expired .displaced d]; exact r6 d (by rw [hc]; exact hd)
  · intro o ho; rw [hport, s.raiseSession_port_ne j _ _ v st hl o (by rw [hown]; simpa using ho)]
  · exact r3.1
  · intro k hk
    have := r3.2 k hk
    refine (show t.findKey k = _ from this).trans ?_; unfold State.findKey; rw [State.raiseSession_directory]

/-- Taking the head out of a list without repeats leaves its tail. -/
theorem filter_ne_head (i : Nat) (rest : List Nat) (h : i ∉ rest) : (i :: rest).filter (fun j => decide (j ≠ i)) = rest := by
  rw [List.filter_cons_of_neg (by simp)]
  apply List.filter_eq_self.2
  intro a ha; simp; rintro rfl; exact h ha

/-- A pass that handles its head goes on as a pass from the state after it (R84). -/
theorem State.servicePass_step {s w : State} {c : CellIx} {i : Nat} {rest : List Nat} (hrun : s.passRuns c = true) (hq : (s.cell c).queue = i :: rest)
    (ht : s.tryHead c i = some w) (hw : w.passRuns c = true) (hwq : (w.cell c).queue = rest) : s.servicePass c = w.servicePass c := by
  unfold State.servicePass
  rw [if_pos hrun, if_pos hw, hq, hwq]
  simp only [List.length_cons, State.passSteps, hq, ht]

/-- A quiet change leaves whether a pass runs (R81). -/
theorem Quiet.passRuns {s w : State} {c : CellIx} (h : Quiet s w) : w.passRuns c = s.passRuns c := by
  unfold State.passRuns State.ownerDraining
  rw [h.cellState c, h.cellOwner c, h.portState]

/-- When a pass runs (R81). -/
theorem State.passRuns_iff {s : State} {c : CellIx} : s.passRuns c = true ↔ ((s.cell c).state = .opened ∨ (s.cell c).state = .barred) ∧ (s.port (s.cell c).owner).state ≠ .draining := by
  unfold State.passRuns State.ownerDraining; simp

/-- The live records of a cell (R38, R141). -/
theorem State.mem_liveIn {s : State} {c : CellIx} {i : Nat} : i ∈ s.liveIn c ↔ ∃ ses st, s.liveAt i = some (ses, st) ∧ ses.key.cell = c := by
  unfold State.liveIn
  rw [List.mem_filter]
  constructor
  · rintro ⟨-, h2⟩
    unfold State.sessionAt at h2
    cases hl : s.liveAt i with
    | none => rw [hl] at h2; simp at h2
    | some x => rw [hl] at h2; exact ⟨x.1, x.2, rfl, by simpa using h2⟩
  · rintro ⟨ses, st, hl, hc⟩
    refine ⟨?_, by unfold State.sessionAt; rw [hl]; simpa using hc⟩
    refine State.mem_keys fun hf => ?_
    rw [State.liveAt_eq_some.1 hl] at hf; cases hf

/-- The records of a drain group (R142). -/
theorem State.mem_groupOf {s : State} {c : CellIx} {i : Nat} {w : Stage → Bool} : i ∈ s.groupOf c w ↔ ∃ ses st, s.liveAt i = some (ses, st) ∧ ses.key.cell = c ∧ w st = true := by
  unfold State.groupOf
  rw [List.mem_filter, State.mem_liveIn]
  constructor
  · rintro ⟨⟨ses, st, h1, h2⟩, h3⟩; rw [h1] at h3; exact ⟨ses, st, h1, h2, h3⟩
  · rintro ⟨ses, st, h1, h2, h3⟩; exact ⟨⟨ses, st, h1, h2⟩, by rw [h1]; exact h3⟩

/-- A drain group is in ascending index. -/
theorem State.groupOf_sorted {s : State} {c : CellIx} {w : Stage → Bool} (h : s.storeCanonical = true) : (s.groupOf c w).Pairwise (· < ·) := by
  unfold State.groupOf State.liveIn
  apply List.Pairwise.filter; apply List.Pairwise.filter
  unfold State.storeCanonical at h
  simp only [Bool.and_eq_true] at h
  have := (sparseSorted_iff s.records).1 h.1.1
  rw [List.pairwise_map]; exact this

/-- The first of a list by a total order is its least element. -/
theorem firstBy_least (b : Nat → Nat → Bool) (tr : ∀ i j k, b i j = true → b j k = true → b i k = true) (tot : ∀ i j, i ≠ j → b i j = true ∨ b j i = true) :
    ∀ l : List Nat, (firstBy b l = none ↔ l = []) ∧ ∀ i, firstBy b l = some i → i ∈ l ∧ ∀ j ∈ l, j ≠ i → b i j = true := by
  intro l
  induction l with
  | nil => simp [firstBy]
  | cons a rest ih =>
    obtain ⟨ih1, ih2⟩ := ih
    unfold firstBy
    cases hf : firstBy b rest with
    | none =>
      have := ih1.1 hf; subst this
      simp
    | some j =>
      obtain ⟨h1, h2⟩ := ih2 j hf
      simp only
      by_cases hb : b j a = true
      · rw [if_pos hb]
        refine ⟨by simp, ?_⟩
        intro i hi; simp at hi; subst hi
        refine ⟨List.mem_cons_of_mem _ h1, ?_⟩
        intro k hk hne
        rcases List.mem_cons.1 hk with rfl | hk
        · exact hb
        · exact h2 k hk hne
      · rw [if_neg hb]
        refine ⟨by simp, ?_⟩
        intro i hi; simp at hi; subst hi
        refine ⟨List.mem_cons_self, ?_⟩
        intro k hk hne
        rcases List.mem_cons.1 hk with rfl | hk
        · exact absurd rfl hne
        · by_cases hkj : k = j
          · subst hkj; rcases tot a k (Ne.symm hne) with h | h
            · exact h
            · exact absurd h hb
          · have h3 := h2 k hk hkj
            by_cases haj : a = j
            · subst haj; exact h3
            · rcases tot a j haj with h | h
              · exact tr _ _ _ h h3
              · exact absurd h hb

/-- The order of drain group 4 is transitive (R142). -/
theorem State.drainsBefore_trans (s : State) (i j k : Nat) : s.drainsBefore i j = true → s.drainsBefore j k = true → s.drainsBefore i k = true := by
  unfold State.drainsBefore; simp only [Bool.or_eq_true, Bool.and_eq_true, decide_eq_true_eq]
  omega

/-- The order of drain group 4 is total (R142). -/
theorem State.drainsBefore_total (s : State) (i j : Nat) (h : i ≠ j) : s.drainsBefore i j = true ∨ s.drainsBefore j i = true := by
  unfold State.drainsBefore; simp only [Bool.or_eq_true, Bool.and_eq_true, decide_eq_true_eq]
  omega

/-- A HELD stage is in no other group. -/
theorem Stage.held_only {st : Stage} (h : st.isHeld = true) : st.isCeding = false ∧ st.isAdmitted = false := by cases st <;> simp [Stage.isHeld, Stage.isCeding, Stage.isAdmitted] at h ⊢

/-- A CEDING stage is in no other group. -/
theorem Stage.ceding_only {st : Stage} (h : st.isCeding = true) : st.isHeld = false ∧ st.isAdmitted = false := by cases st <;> simp [Stage.isHeld, Stage.isCeding, Stage.isAdmitted] at h ⊢

/-- A SETUP or ACTIVE stage is in no other group. -/
theorem Stage.admitted_only {st : Stage} (h : st.isAdmitted = true) : st.isHeld = false ∧ st.isCeding = false := by cases st <;> simp [Stage.isHeld, Stage.isCeding, Stage.isAdmitted] at h ⊢

/-- A stage in none of the other groups is SETUP or ACTIVE. -/
theorem Stage.admitted_of_rest {st : Stage} (a : st.isHeld = false) (b : st.isCeding = false) (c : st.isQueued = false) : st.isAdmitted = true := by cases st <;> simp [Stage.isHeld, Stage.isCeding, Stage.isAdmitted, Stage.isQueued] at a b c ⊢

end Sys2Proof.Machine
end

