-- ==== Sys2Proof/Laws/Window.lean ====
section
/-! SUPPORT. Addresses and write accesses of the register window. -/

namespace Sys2Proof.Machine

/-- The field a write access stands at. -/
theorem State.writeField_of {s : State} {a : Nat} (h : s.writesAt a) : s.writeField = locate (BitVec.ofNat 16 a) := by
  unfold State.writesAt at h; unfold State.writeField State.writeAddress; rw [h]; rfl

/-- The current address of a write transaction. -/
theorem State.writeAddress_of {s : State} {a : Nat} (h : s.writesAt a) : s.writeAddress = some (BitVec.ofNat 16 a) := by
  unfold State.writesAt at h; unfold State.writeAddress; rw [h]; rfl

/-- The address after a write access (R175). -/
theorem State.advance_past {s w : State} {a : Nat} (h : s.writesAt a) (hw : w.transaction = s.transaction) : w.advance = w.pastWrite a := by
  unfold State.advance State.pastWrite; rw [hw]; unfold State.writesAt at h; rw [h]
  simp only [Option.map_some]; rw [show BitVec.ofNat 16 (a + 1) = BitVec.ofNat 16 a + 1 by rw [BitVec.ofNat_add]; rfl]

/-- A quiet change leaves the transaction. -/
theorem Quiet.transaction {s w : State} (h : Quiet s w) : w.transaction = s.transaction := congrArg Background.transaction h.1

/-- The addresses of a cell's fields (11.1). -/
theorem locate_cell (c : CellIx) (o : Nat) (ho : o < 32) : locate (BitVec.ofNat 16 (0x100 + o + 32 * c.val)) = locateCell c o := by
  unfold locate
  have hc := c.isLt
  have e : (BitVec.ofNat 16 (0x100 + o + 32 * c.val)).toNat = 256 + o + 32 * c.val := by simp; omega
  rw [e]; simp only
  rw [if_neg (by omega), if_neg (by omega), if_pos (by omega)]
  have e1 : (256 + o + 32 * c.val - 256) / 32 = c.val := by omega
  have e2 : (256 + o + 32 * c.val - 256) % 32 = o := by omega
  rw [e1, e2, show Fin.ofNat 16 c.val = c from Fin.ext (Nat.mod_eq_of_lt c.isLt)]

/-- The addresses of a class's fields (11.1). -/
theorem locate_class (c : ClassIx) (o : Nat) (ho : o < 16) : locate (BitVec.ofNat 16 (0x400 + 16 * c.val + o)) = locateClass c o := by
  unfold locate
  have hc := c.isLt
  have e : (BitVec.ofNat 16 (0x400 + 16 * c.val + o)).toNat = 1024 + 16 * c.val + o := by simp; omega
  rw [e]; simp only
  rw [if_neg (by omega), if_neg (by omega), if_neg (by omega), if_pos (by omega)]
  have e1 : (1024 + 16 * c.val + o - 1024) / 16 = c.val := by omega
  have e2 : (1024 + 16 * c.val + o - 1024) % 16 = o := by omega
  rw [e1, e2, show Fin.ofNat 16 c.val = c from Fin.ext (Nat.mod_eq_of_lt c.isLt)]

/-- The addresses of a port's fields (11.1). -/
theorem locate_port (p : PortIx) (o : Nat) (ho : o < 6) : locate (BitVec.ofNat 16 (0x30 + o + 6 * p.val)) = locatePort p o := by
  unfold locate
  have hc := p.isLt
  have e : (BitVec.ofNat 16 (0x30 + o + 6 * p.val)).toNat = 48 + o + 6 * p.val := by simp; omega
  rw [e]; simp only
  rw [if_neg (by omega), if_pos (by omega)]
  have e1 : (48 + o + 6 * p.val - 48) / 6 = p.val := by omega
  have e2 : (48 + o + 6 * p.val - 48) % 6 = o := by omega
  rw [e1, e2, show Fin.ofNat 4 p.val = p from Fin.ext (Nat.mod_eq_of_lt p.isLt)]

/-- A pass leaves the transaction. -/
theorem State.servicePass_transaction (s : State) (c : CellIx) : (s.servicePass c).transaction = s.transaction := Quiet.transaction (still_servicePass s c).1

end Sys2Proof.Machine
end

