-- ==== Sys2Proof/Tests/Slice0.lean ====
section
/-! SUPPORT. Small tests: ill-formed commands, values of the manual, one step of the manual's commands; then one witness for the hypotheses of each statement. -/

namespace Sys2Proof.Tests

open Sys2Proof Sys2Proof.Machine

-- The tests evaluate in the kernel one after another, not many at once.
set_option Elab.async false

/-! ### A small world -/

/-- A session of cell c and terminal n. -/
def person (c : CellIx) (n : Nat) (k : ClassIx) (level demand : Nat) (vulnerable : Bool) : Session :=
  Session.mk (Key.mk c (BitVec.ofNat 32 n) 0) k level false vulnerable 50 100 demand 0x0F0F 7 false

def walker : Session := person 0 0 1 5 6 true
def waiter : Session := person 0 1 2 9 8 false
def comer : Session := person 0 2 1 5 1 false
def holder : Session := person 0 3 2 9 3 false
def leaver : Session := person 0 4 1 5 2 false
def guest : Session := person 1 2 1 5 1 false

/-- Six records: ACTIVE and vulnerable, QUEUED, SETUP, HELD, CEDING for the HELD one, and ACTIVE in cell 1. -/
def crowdRecords : List (Nat × Record) :=
  [(0, Record.mk 1 (.live walker (.active 0)) none), (1, Record.mk 1 (.live waiter (.queued 0 0 0)) none),
   (2, Record.mk 1 (.live comer (.setup 0 (some 0))) none), (3, Record.mk 1 (.live holder (.held [Handle.mk 4 1] 2 1 0)) none),
   (4, Record.mk 1 (.live leaver (.ceding 0 (some (Handle.mk 3 1)) 0)) none),
   (5, Record.mk 1 (.live guest (.active 0)) none)]

/-- The directory of the crowd. -/
def crowdDirectory : List (Nat × Handle) :=
  [(walker.key.code, Handle.mk 0 1), (waiter.key.code, Handle.mk 1 1), (comer.key.code, Handle.mk 2 1),
   (holder.key.code, Handle.mk 3 1), (leaver.key.code, Handle.mk 4 1), (guest.key.code, Handle.mk 5 1)]

/-- Cell 0 of the crowd with a capacity, its level and its occupancy. -/
def crowdCell (capacity level occupancy : Nat) : Cell :=
  { Cell.reset with
    state := .opened, capacity := capacity, level := level, occupancy := occupancy
    countA := 7, countC := 2, countR := 1, queue := [1], enqueueOrder := [1], rankList := [0] }

/-- Cell 1 of the crowd. -/
def sideCell : Cell := { Cell.reset with state := .opened, capacity := 10, countA := 1, occupancy := 100 }

/-- Class 1 may queue and is vulnerable, class 2 may queue and preempt, class 3 is an emergency class, class 4 may do nothing. -/
def crowdClasses : Vector ServiceClass 16 :=
  (((State.reset.classes.set 1 (ServiceClass.mk 5 false false true true 1 4 100 50 1000)).set 2
    (ServiceClass.mk 9 false true false true 0 4 100 50 1000)).set 3
    (ServiceClass.mk 1 true false false false 0 1 100 50 1000)).set 4 (ServiceClass.mk 5 false false false false 0 2 0 0 0)

/-- The crowd: every port UP, the table open. At capacity 10 cell 0 is full; at 100 there is room. -/
def crowd (capacity level occupancy : Nat) : State :=
  { State.reset with
    tableOpen := true
    records := crowdRecords
    freeList := List.range' 6 16378
    directory := crowdDirectory
    cells := (State.reset.cells.set 0 (crowdCell capacity level occupancy)).set 1 sideCell
    classes := crowdClasses
    ports := Vector.replicate 4 { Port.reset with state := .up } }

/-- The crowd with cell 0 full, and with room. -/
def full : State := crowd 10 3 1000
def roomy : State := crowd 100 0 100

/-- A request in a lane of port 0, and the state that holds it there. -/
def ask (k : RequestKind) (body : List Byte) : Request := Request.mk k 0 0x1234 body
def asks (s : State) (l : Lane) (r : Request) : State := s.modPort 0 fun q => q.setLane l [r]

/-- A write and a read access of the management port at an address. -/
def writing (s : State) (a : Nat) : State := { s with transaction := some (Transaction.mk .write (BitVec.ofNat 16 a)) }
def reading (s : State) (a : Nat) : State := { s with transaction := some (Transaction.mk .read (BitVec.ofNat 16 a)) }

/-- The next state of a command; the state itself if it stopped. -/
def run (c : Instr) (s : State) : State :=
  match exec c s with
  | .next t => t
  | _ => s

/-! ### The crowd meets the invariants -/

theorem crowd_beyond (K l o i : Nat) (h : 6 ≤ i) : (crowd K l o).record i = Record.fresh := by
  simp only [State.record, crowd, crowdRecords, sparseFind]
  rw [if_neg (by omega), if_neg (by omega), if_neg (by omega), if_neg (by omega), if_neg (by omega), if_neg (by omega)]; rfl

theorem crowd_indices {P : Nat → Prop} (h : ∀ i, i < 6 → P i) (g : ∀ i, 6 ≤ i → P i) (i : Nat) : P i :=
  if hi : i < 6 then h i hi else g i (by omega)

theorem crowd_free (K l o i : Nat) : ((crowd K l o).record i).life = .free ↔ 6 ≤ i := by
  refine crowd_indices (P := fun i => ((crowd K l o).record i).life = .free ↔ 6 ≤ i) ?_ (fun i hi => ?_) i
  · intro i hi
    match i, hi with
    | 0, _ | 1, _ | 2, _ | 3, _ | 4, _ | 5, _ => exact ⟨fun h => (by cases h), fun h => (by omega)⟩
  · rw [crowd_beyond _ _ _ _ hi]; exact ⟨fun _ => hi, fun _ => rfl⟩

theorem crowd_live (K l o i : Nat) (h : 6 ≤ i) : (crowd K l o).liveAt i = none := by
  rw [State.liveAt, crowd_beyond _ _ _ _ h]; rfl

theorem crowd_storeExact (K l o : Nat) : (crowd K l o).storeExact := by
  refine ⟨⟨List.nodup_range', fun i => ?_, fun i h => ?_⟩, fun i => ?_, fun i => ?_, fun k h => ?_, ?_⟩
  · rw [crowd_free]; simp only [crowd, List.mem_range'_1]; show 6 ≤ i ∧ i < 6 + 16378 ↔ i < 16384 ∧ 6 ≤ i; omega
  · rw [Ne, crowd_free] at h; show i < 16384; omega
  · refine crowd_indices (P := fun i => (((crowd K l o).record i).life = .free → ((crowd K l o).record i).pending = none)
      ∧ (((crowd K l o).record i).life = .spent → ((crowd K l o).record i).pending ≠ none)) ?_ (fun i hi => ?_) i
    · intro i hi
      match i, hi with
      | 0, _ | 1, _ | 2, _ | 3, _ | 4, _ | 5, _ => exact ⟨fun h => (by cases h), fun h => (by cases h)⟩
    · rw [crowd_beyond _ _ _ _ hi]; decide
  · refine crowd_indices (P := fun i => 1 ≤ ((crowd K l o).record i).generation ∧ ((crowd K l o).record i).generation ≤ 255)
      ?_ (fun i hi => ?_) i
    · intro i hi
      match i, hi with
      | 0, _ | 1, _ | 2, _ | 3, _ | 4, _ | 5, _ => exact (by decide : 1 ≤ 1 ∧ 1 ≤ 255)
    · rw [crowd_beyond _ _ _ _ hi]; decide
  · constructor
    · intro hf
      simp only [State.findKey, crowd, crowdDirectory, sparseFind] at hf
      split at hf
      · next e => cases hf; exact ⟨_, _, rfl, Key.code_injective e, rfl⟩
      split at hf
      · next e => cases hf; exact ⟨_, _, rfl, Key.code_injective e, rfl⟩
      split at hf
      · next e => cases hf; exact ⟨_, _, rfl, Key.code_injective e, rfl⟩
      split at hf
      · next e => cases hf; exact ⟨_, _, rfl, Key.code_injective e, rfl⟩
      split at hf
      · next e => cases hf; exact ⟨_, _, rfl, Key.code_injective e, rfl⟩
      split at hf
      · next e => cases hf; exact ⟨_, _, rfl, Key.code_injective e, rfl⟩
      · cases hf
    · rintro ⟨ses, st, hl, rfl, hh⟩
      obtain ⟨i, g⟩ := h
      change (crowd K l o).liveAt i = _ at hl
      by_cases hi : i < 6
      · match i, hi with
        | 0, _ | 1, _ | 2, _ | 3, _ | 4, _ | 5, _ => cases hl; rw [← hh]; show sparseFind crowdDirectory _ = some (Handle.mk _ 1); dsimp only; decide +kernel
      · rw [crowd_live _ _ _ _ (Nat.le_of_not_lt hi)] at hl; cases hl
  · show (sparseSorted crowdRecords && crowdRecords.all (fun e => decide (e.2 ≠ Record.fresh)) && sparseSorted crowdDirectory) = true
    decide +kernel

theorem crowd_cells (K l o : Nat) (c : CellIx) : ((crowd K l o).cell c).queue = (if c = 0 then [1] else [])
    ∧ ((crowd K l o).cell c).enqueueOrder = (if c = 0 then [1] else [])
    ∧ ((crowd K l o).cell c).rankList = (if c = 0 then [0] else [])
    ∧ ((crowd K l o).cell c).countA = (if c = 0 then 7 else if c = 1 then 1 else 0)
    ∧ ((crowd K l o).cell c).countC = (if c = 0 then 2 else 0) ∧ ((crowd K l o).cell c).countR = (if c = 0 then 1 else 0) := by
  fin_cases c <;> exact ⟨rfl, rfl, rfl, rfl, rfl, rfl⟩

theorem crowd_cellExact (K l o : Nat) (c : CellIx) : (crowd K l o).cellExact c := by
  obtain ⟨hq, he, hr, ha, hc, hR⟩ := crowd_cells K l o c
  simp only [State.cellExact, hq, he, hr, ha, hc, hR]
  clear hq he hr ha hc hR
  refine ⟨?_, ?_, ?_, ?_, ?_, fun i => ?_, ?_, ?_, fun i => ?_, ?_⟩
  · exact (by decide +kernel : ∀ c : CellIx, (if c = 0 then 7 else if c = 1 then 1 else 0) = full.sumOver c countsA) c
  · exact (by decide +kernel : ∀ c : CellIx, (if c = 0 then 2 else 0) = full.sumOver c countsC) c
  · exact (by decide +kernel : ∀ c : CellIx, (if c = 0 then 1 else 0) = full.sumOver c countsR) c
  · split <;> decide
  · exact List.Perm.refl _
  · refine crowd_indices (P := fun i => i ∈ (if c = 0 then [1] else []) ↔ ∃ ses st, (crowd K l o).liveAt i = some (ses, st)
      ∧ ses.key.cell = c ∧ st.isQueued = true) ?_ (fun i hi => ?_) i
    · intro i hi
      match i, hi with
      | 0, _ | 1, _ | 2, _ | 3, _ | 4, _ | 5, _ =>
        exact ⟨fun h => ⟨_, _, rfl, by revert c; decide, by revert c; decide⟩, by
          rintro ⟨ses, st, hl, h1, h2⟩; cases hl; revert h2 c; decide⟩
    · rw [crowd_live _ _ _ _ hi]
      exact ⟨fun h => by split at h <;> simp at h; omega, fun ⟨_, _, h, _⟩ => by cases h⟩
  · split <;> simp
  · split <;> decide
  · refine crowd_indices (P := fun i => i ∈ (if c = 0 then [0] else []) ↔ ∃ ses st, (crowd K l o).liveAt i = some (ses, st)
      ∧ ses.key.cell = c ∧ st.isAdmitted = true ∧ ses.vulnerable = true) ?_ (fun i hi => ?_) i
    · intro i hi
      match i, hi with
      | 0, _ | 1, _ | 2, _ | 3, _ | 4, _ | 5, _ =>
        exact ⟨fun h => ⟨_, _, rfl, by revert c; decide, by revert c; decide⟩, by
          rintro ⟨ses, st, hl, h1, h2⟩; cases hl; revert h2 c; decide⟩
    · rw [crowd_live _ _ _ _ hi]
      exact ⟨fun h => by split at h <;> simp at h; omega, fun ⟨_, _, h, _⟩ => by cases h⟩
  · split <;> simp

theorem crowd_accountsExact (K l o : Nat) : (crowd K l o).accountsExact := by
  refine ⟨crowd_cellExact K l o, fun i => ⟨?_, ?_⟩, fun i => ?_⟩
  · intro ses vs n e x h
    by_cases hi : i < 6
    · match i, hi with
      | 0, _ | 1, _ | 2, _ | 4, _ | 5, _ => cases h
      | 3, _ =>
        cases h
        refine ⟨by decide, by decide, by decide, by decide, (by decide : 2 ≤ 0 + ([2] : List Nat).sum), fun h hm => ?_⟩
        cases List.mem_singleton.mp hm
        exact ⟨leaver, 0, 0, ⟨rfl, rfl, by decide⟩, by decide, by decide⟩
    · rw [crowd_live _ _ _ _ (Nat.le_of_not_lt hi)] at h; cases h
  · intro ses stamp b d h
    by_cases hi : i < 6
    · match i, hi with
      | 0, _ | 1, _ | 2, _ | 3, _ | 5, _ => cases h
      | 4, _ =>
        cases h
        exact ⟨holder, _, _, _, _, ⟨rfl, rfl, by decide⟩, List.mem_singleton.mpr rfl⟩
    · rw [crowd_live _ _ _ _ (Nat.le_of_not_lt hi)] at h; cases h
  · intro ses st h
    by_cases hi : i < 6
    · match i, hi with
      | 0, _ | 1, _ | 2, _ | 3, _ | 4, _ | 5, _ => cases h; decide
    · rw [crowd_live _ _ _ _ (Nat.le_of_not_lt hi)] at h; cases h

theorem crowd_backlogExact (K l o : Nat) : (crowd K l o).backlogExact := by
  have hb : ∀ p, ((crowd K l o).port p).backlog = [] := fun p => by fin_cases p <;> rfl
  refine ⟨fun i => ?_, fun i p q h => ?_, fun c => ?_, fun c p h => ?_, fun p => ?_⟩
  · simp only [hb, List.not_mem_nil, exists_false, iff_false, not_not]
    refine crowd_indices (P := fun i => ((crowd K l o).record i).pending = none) ?_ (fun i hi => ?_) i
    · intro i hi
      match i, hi with
      | 0, _ | 1, _ | 2, _ | 3, _ | 4, _ | 5, _ => rfl
    · rw [crowd_beyond _ _ _ _ hi]; rfl
  · rw [hb] at h; cases h
  · rw [hb]; fin_cases c <;> exact ⟨fun h => (by cases h), fun h => (by cases h)⟩
  · rw [hb] at h; cases h
  · rw [hb]; exact List.nodup_nil

/-! ### Ill-formed commands, frames, the table's words -/

theorem test_frame_delimiter : Instr.wellFormed (.frameArrival 0 [0xA7, 1, 0, 0, 0, 0, 1, 2]) = false := by decide
theorem test_frame_short : Instr.wellFormed (.frameArrival 0 [0xA6, 1, 0, 0, 0, 1, 1, 2]) = false := by decide
theorem test_frame_whole : Instr.wellFormed (.frameArrival 0 [0xA6, 1, 0, 0, 0, 0, 1, 2]) = true := by decide
theorem test_guard_index : Instr.wellFormed (.setupGuardExpiry 16384) = false := by decide
theorem test_grace_index : Instr.wellFormed (.graceExpiry 16384) = false := by decide
theorem test_wait_index : Instr.wellFormed (.waitExpiry 16384) = false ∧ Instr.wellFormed (.waitExpiry 16383) = true := by decide
theorem test_no_word_spells_a_command : decodeTableWord 16 0x0102 = none := rfl

/-- The note below R165: the digits 1 to 9 in ASCII. -/
theorem test_check_of_digits : frameCheck [0x31, 0x32, 0x33, 0x34, 0x35, 0x36, 0x37, 0x38, 0x39] = 0x29B1 := by decide +kernel

/-! ### One step each, with the figures of the manual's worked cases -/

/-- An Admit body for cell 0 and terminal 9, of a class and a demand. -/
def admission (k : Byte) (high low : Byte) : List Byte := [0, 0, 0, 0, 9, 0, k, high, low, 0, 0]

/-- A body that begins with the handle of a crowd record. -/
def about (i : Byte) (rest : List Byte) : List Byte := [0, i, 1] ++ rest

/-- A state changed in cell 0. -/
def inCell (s : State) (f : Cell → Cell) : State := s.modCell 0 f

/-- The last answer in a port's transmit order. -/
def answered (s : State) : Option (Status × Bool × Bool × Bool × ResponseBody) :=
  (s.port 0).transmit.getLast?.map fun r => (r.status, r.zero, r.isMatch, r.clamped, r.body)

/-- The counters of cell 0 with its level and occupancy. -/
def figures (s : State) : List Nat :=
  [(s.cell 0).countA, (s.cell 0).countC, (s.cell 0).countR, (s.cell 0).level, (s.cell 0).occupancy]

/-- Worked case 1 of 3.11 before its Admit, in cell 0: X, Y and Z on the rank list, K = 4,000, F = 400, A = 3,950. -/
def caseOne : State :=
  { crowd 4000 3 987 with
    records := [(0, Record.mk 2 (.live (person 0 0 1 2 30 true) (.active 0)) none),
      (1, Record.mk 1 (.live (person 0 1 1 2 25 true) (.active 0)) none),
      (2, Record.mk 5 (.live (person 0 2 1 3 200 true) (.active 0)) none)]
    cells := State.reset.cells.set 0 { crowdCell 4000 3 987 with
      floor := 400, countA := 3950, countC := 0, countR := 0, queue := [], enqueueOrder := [], rankList := [0, 1, 2] } }

/-- Step 1 of that case: A 3,695, C 255, R 50, o 1000; HELD, need 70, reserved 50, victims X, Y, Z. -/
theorem test_case_one_decision :
    figures (run .admitRequest (asks caseOne .urgent (ask .admission (admission 3 0 120)))) = [3695, 255, 50, 3, 1000]
    ∧ ((run .admitRequest (asks caseOne .urgent (ask .admission (admission 3 0 120)))).liveAt 6).map Prod.snd
      = some (.held [Handle.mk 0 2, Handle.mk 1 1, Handle.mk 2 5] 70 50 0) := by decide +kernel

/-- That case's notices, in the order the walk took the victims. -/
theorem test_case_one_notices : ((run .admitRequest (asks caseOne .urgent (ask .admission (admission 3 0 120)))).port 0).ring
    = [.session .releaseOrder .preempted (Handle.mk 0 2) 0 7, .session .releaseOrder .preempted (Handle.mk 1 1) 0 7,
      .session .releaseOrder .preempted (Handle.mk 2 5) 0 7] := by decide +kernel

/-- The worked sequence of 2.3: K cut from 4,000 to 3,000 at U = 3,700 takes o from 925 to 1000 and the level from 2 to 3. -/
theorem test_capacity_cut :
    figures (run (.capacityWrite 0xB8) (writing { inCell caseOne (fun k => { k with countA := 3700, level := 2, occupancy := 925 })
      with holding := 0x0B } 0x103)) = [3700, 0, 0, 3, 1000] := by decide +kernel

/-- The worked case of 7.2 where three thresholds coincide at 900: o 910 takes level 0 to 3, o 840 takes it back to 0. -/
theorem test_thresholds_coincide :
    (Cell.recomputed { crowdCell 2000 0 850 with t1 := 900, t2 := 800, t3 := 850, countA := 1820, countC := 0, countR := 0 }).level = 3
    ∧ (Cell.recomputed { crowdCell 2000 3 880 with t1 := 900, t2 := 800, t3 := 850, countA := 1680, countC := 0, countR := 0 }).level
      = 0 := by decide +kernel

/-- The worked case of 7.2 on hysteresis: o 900 stays CRITICAL, o 897 is SURGE, o 675 from 1 stays, o 647 is NORMAL. -/
theorem test_hysteresis :
    [(3600, 3), (3590, 3), (2700, 1), (2590, 1)].map (fun x => (Cell.recomputed { crowdCell 4000 x.2 0 with
      countA := x.1, countC := 0, countR := 0 }).level) = [3, 2, 1, 0] := by decide +kernel

/-- The worked sequence of 2.5: a record joins ahead of its own level and behind lower ones. -/
theorem test_rank_places : rankInsert (fun i => [4, 2, 4].getD i 0) 5 2 [1, 2, 0] = [5, 1, 2, 0]
    ∧ rankInsert (fun i => [4, 2, 4].getD i 0) 6 5 [5, 1, 2, 0] = [5, 1, 2, 0, 6] := by decide +kernel

/-- The worked case of 4.2: Y of virtual arrival 2^32 − 1,500 stands ahead of X of 4,000, and Z of 9,000 behind both. -/
theorem test_virtual_arrivals : virtualArrival 12500 7 2000 = 4294965796#32
    ∧ queueInsert (fun _ => false) (fun i => [4000, 4294965796, 9000].getD i 0) 1 [0] = [1, 0]
    ∧ queueInsert (fun _ => false) (fun i => [4000, 4294965796, 9000].getD i 0) 2 [1, 0] = [1, 0, 2] := by decide +kernel

/-- The worked case of 4.4: a limit lowered under emergency traffic keeps the emergency records, and takes the others tail
first; here the one ordinary record goes, with its notice. -/
theorem test_depth_limit_cut : ((run (.depthLimitWrite 0) (writing full 0x10D)).cell 0).queue = []
    ∧ ((run (.depthLimitWrite 0) (writing full 0x10D)).port 0).ring
      = [.session .expired .displaced (Handle.mk 1 1) 0 7] := by decide +kernel

/-- The worked sequence of 5.4, with its words: SET, CLEAR, TEST and EXCHANGE. -/
theorem test_tags :
    [(Instr.amendSet, (1 : Byte), 0x0A41#16, [0x00, 0x04, 0, 0, 0, 0]), (.amendClear, 2, 0x0A45#16, [0x0A, 0x00, 0, 0, 0, 0]),
      (.amendTest, 3, 0x0045#16, [0x0F, 0x00, 0, 0, 0, 0]), (.amendExchange, 4, 0x0045#16, [0x00, 0xF0, 0, 0x40, 0, 0x20]),
      (.amendExchange, 4, 0x0025#16, [0x00, 0xF0, 0, 0x40, 0, 0x30])].map (fun x =>
      answered (run x.1 (asks (full.setLive 0 { walker with tags := x.2.2.1 } (.active 0)) .normal
        (ask .amend (about 0 (x.2.1 :: x.2.2.2))))))
    = [some (.ok, false, false, false, .amend 0x0A41 0x0A45), some (.ok, false, false, false, .amend 0x0A45 0x0045),
      some (.ok, true, false, false, .amend 0x0045 0x0045), some (.ok, false, true, false, .amend 0x0045 0x0025),
      some (.ok, false, false, false, .amend 0x0025 0x0025)] := by decide +kernel

/-- R103 to R105: an increase beyond the headroom is refused, one within it granted, a demand field of 0 counts as 1. -/
theorem test_resize :
    [0, 96, 97].map (fun d => answered (run .resizeRequest (asks (crowd 100 0 100) .normal (ask .resize (about 0 [0, d])))))
    = [some (.ok, false, false, true, .demand 1), some (.ok, false, false, false, .demand 96),
      some (.noRoom, false, false, false, .demand 6)] := by decide +kernel

/-- Cases 1 and 3 of 3.11 in small: the exit of the last victim promotes its requester; the requester's own release drops it. -/
theorem test_release_of_victim_and_requester :
    figures (run .releaseRequest (asks full .normal (ask .release (about 4 [])))) = [10, 0, 0, 3, 1000]
    ∧ figures (run .releaseRequest (asks full .normal (ask .release (about 3 [])))) = [7, 2, 0, 3, 900] := by decide +kernel

theorem test_confirm : ((run .confirmRequest (asks full .normal (ask .confirm (about 2 [])))).record 2).state = .active := by
  decide +kernel
theorem test_lookup : answered (run .lookupRequest (asks full .normal (ask .lookup [1, 0, 0, 0, 2, 0])))
    = some (.ok, false, false, false, .lookup (Handle.mk 5 1) .active 1 5 1) := by decide +kernel
theorem test_query_stale : answered (run .queryRequest (asks full .normal (ask .query [0, 0, 2])))
    = some (.stale, false, false, false, .empty) := by decide +kernel
theorem test_move : ((run .moveRequest (asks full .normal (ask .move (about 0 [1])))).cell 1).countA = 7
    ∧ (run .moveRequest (asks full .normal (ask .move (about 0 [1])))).levelAt 0 = 6 := by decide +kernel
theorem test_cell_status : answered (run .cellStatusRequest (asks full .normal (ask .cellStatus [0])))
    = some (.ok, false, false, false, .cellStatus .opened 10 0 7 2 1 10 1000 3 1 5) := by decide +kernel
theorem test_null_while_closed : answered (run .nullRequest (asks { full with tableOpen := false } .normal (ask .null [])))
    = some (.notReady, false, false, false, .empty) := by decide +kernel
theorem test_withdraw : ((run .withdrawRequest (asks full .normal (ask .withdraw []))).port 0).state = .draining := by
  decide +kernel
theorem test_fetch : answered (run .fetchRequest (asks (full.raiseLevel 0) .normal (ask .fetch [8])))
    = some (.ok, false, false, false, .fetch [.level 0 3] 0 false) := by decide +kernel
theorem test_setup_guard : ((run (.setupGuardExpiry 2) full).record 2) = Record.mk 2 .free none := by decide +kernel
theorem test_wait_expiry : ((run (.waitExpiry 1) full).cell 0).queue = [] := by decide +kernel
theorem test_grace_expiry : ((run (.graceExpiry 4) full).record 3).state = .setup := by decide +kernel
theorem test_tick_wraps : (run .tick { full with tick := 4294967295 }).tick = 0 := by decide +kernel
/-- R116: the guard that falls due at the tick is taken before the tick passes on. -/
theorem test_tick_takes_what_is_due : (run .tick { crowd 100 0 100 with
      records := [(2, Record.mk 1 (.live comer (.setup 0 (some 7))) none)], tick := 7 }).record 2 = Record.mk 2 .free none := by
  decide +kernel
/-- R140: an idle engine's pending drain starts, and one with nothing to retire ends at once. -/
theorem test_tick_starts_drains : ((run .tick { full.modCell 2 fun k => { k with state := .draining, drainFlag := true } with
      tick := 7 }).cell 2).state = .closed := by decide +kernel
/-- R34 with R33: the class of an ordinary record has become an open emergency class, of level 15 with boost 1. -/
theorem test_move_in_open_emergency_class : (run .moveRequest (asks (full.modClass 1 fun k => { k with emergency := true }) .normal
      (ask .move (about 0 [1])))).levelAt 0 = 14 := by decide +kernel
theorem test_open_at_no_capacity : figures (run .openCell (writing State.reset 0x118)) = [0, 0, 0, 3, 1000] := by decide +kernel
theorem test_clear_event : (run (.eventRawWrite 0x0F) (writing { full with eventRaw := 0x1FF, holding := 1 } 0x19)).eventRaw
    = 0x0F0 := by decide +kernel
theorem test_read_of_no_field : (run .highByteRead (reading full 0x0016)).dataOut = some 0
    ∧ (run .highByteRead (reading full 0x0016)).transaction = some (Transaction.mk .read 0x0017) := by decide +kernel
theorem test_window : [0x0000, 0x0021, 0x0036, 0x0047, 0x02E3, 0x04F9, 0x0300].map (fun a => locate (BitVec.ofNat 16 a))
    = [some (.vendorCode, .whole), some (.agingWeight, .low), some (.ringSize 1, .whole), some (.errorCount 3, .low),
      some (.capacity 15, .low), some (.classMaxWait 15, .low), none] := by decide +kernel

/-! ### Witnesses: a state and operands that meet the hypotheses of each statement, clause by clause -/

/-- A step that answers a next state, from a state with records, a queue, HELD and CEDING records. -/
def atWork : State := { asks full .urgent (ask .admission (admission 3 0 3)) with pending := [.admitRequest] }

theorem witness_StepRunsFrontCommand : atWork.pending = .admitRequest :: [] ∧ full.pending = [] := ⟨rfl, rfl⟩
theorem witness_CommandsCompleteAndKeepTheQueue : happens (.pulseEnd 0) full = false ∧ happens (.nullRequest) full = false := by
  decide +kernel
theorem witness_ConfigurationChangesByWritesAlone : (∃ t, exec .selectRelease full = .next t)
    ∧ Instr.selectRelease ≠ .tick ∧ Instr.selectRelease ≠ .pinReset ∧ (∀ b, Instr.selectRelease ≠ .registerWrite b)
    ∧ (∀ b, Instr.selectRelease ≠ .capacityWrite b) ∧ (∀ b, Instr.selectRelease ≠ .ownerPortWrite b) :=
  ⟨⟨_, rfl⟩, nofun, nofun, nofun, nofun, nofun⟩
theorem witness_InterruptLineFollowsEvents : atWork.interruptFollows ∧ ∃ t, step atWork = .next t :=
  ⟨by unfold State.interruptFollows; decide, _, rfl⟩
theorem witness_NoticeStoresStayBounded : (∀ p, (atWork.port p).ringBounded ∧ (atWork.port p).attnFollows
    ∧ (atWork.port p).drainingEmpty) ∧ ∃ t, step atWork = .next t := by
  refine ⟨?_, _, rfl⟩
  unfold Port.ringBounded Port.attnFollows Port.drainingEmpty; decide +kernel
theorem witness_BacklogsStayExact : full.backlogExact ∧ ∃ t, step full = .next t := ⟨crowd_backlogExact _ _ _, _, rfl⟩
theorem witness_LevelsFollowTheFigures : (∀ c, (atWork.cell c).levelFollows) ∧ ∃ t, step atWork = .next t := by
  refine ⟨?_, _, rfl⟩
  unfold Cell.levelFollows; decide +kernel
theorem witness_RecordStoreStaysExact : atWork.storeExact ∧ ∃ t, step atWork = .next t := ⟨crowd_storeExact 10 3 1000, _, rfl⟩

/-- The drain of port 3 chosen, that of cell 2 waiting. -/
def drainsPending : State :=
  { (full.modPort 3 fun q => { q with state := .draining, drainFlag := true }).modCell 2 fun k =>
      { k with state := .draining, drainFlag := true } with chosen := some (.portDrain 3) }

theorem witness_SettingsAndLanesStayInRange : atWork.settingsInRange ∧ (∀ p, (atWork.port p).lanesBounded)
    ∧ (atWork.engineExact ∧ drainsPending.engineExact) ∧ ∃ t, step atWork = .next t := by
  refine ⟨?_, ?_, ⟨?_, ?_⟩, _, rfl⟩
  · unfold State.settingsInRange Cell.inRange ServiceClass.inRange Port.inRange; decide +kernel
  · unfold Port.lanesBounded; decide +kernel
  · unfold State.engineExact; decide +kernel
  · unfold State.engineExact; decide +kernel
theorem witness_CellAccountsStayExact : atWork.storeExact ∧ atWork.accountsExact ∧ ∃ t, step atWork = .next t :=
  ⟨crowd_storeExact 10 3 1000, crowd_accountsExact 10 3 1000, _, rfl⟩

/-- Nothing is due right after pin reset. -/
theorem reset_settled : State.reset.settled := by
  refine ⟨fun e => ?_, by decide +kernel⟩
  cases e with
  | setupGuard i => rfl
  | grace i => rfl
  | wait i => rfl
  | supervision p => exact (by decide +kernel : ∀ p, State.reset.supervisionDue p = false) p
  | pulse p => exact (by decide +kernel : ∀ p : PortIx, (State.reset.port p).pulseDue State.reset.tick = false) p

theorem witness_TicksMeetADeadlineOnce : State.reset.settled ∧ full.storeCanonical = true ∧ happens (.graceExpiry 4) full = true
    ∧ full.durationsInRange ∧ (1 ≤ 1 ∧ 1 ≤ 65535 ∧ 65535 ≤ 65535 ∧ 0 < 1)
    ∧ ∀ m t, m < 1 → State.reset.afterTicks m = some t → t.settled := by
  refine ⟨reset_settled, by decide +kernel, by decide +kernel, ⟨fun i ses st h => ?_, by decide +kernel⟩, by decide, fun m t hm h => ?_⟩
  · by_cases hi : i < 6
    · match i, hi with
      | 0, _ | 1, _ | 2, _ | 3, _ | 4, _ | 5, _ => cases h; decide
    · rw [full, crowd_live _ _ _ _ (Nat.le_of_not_lt hi)] at h; cases h
  · match m, hm with
    | 0, _ => cases h; exact reset_settled
theorem witness_EventWritesMoveTheInterruptLine :
    (writing full 0x19).transaction = some (Transaction.mk .write 0x0019) ∧ (writing full 0x1B).transaction
      = some (Transaction.mk .write 0x001B) := by decide +kernel
theorem witness_InvalidFramesAreCountedAndDiscarded :
    ([] : List Byte).length = (0 : Byte).toNat ∧ ([0] : List Byte).length = (1 : Byte).toNat
    ∧ frameCheck ([1, 0, 0, 0, 0] ++ []) ≠ (0 : Byte) ++ (0 : Byte) ∧ kindOfCode 13 = none ∧ kindOfCode 0 = none
    ∧ (kindOfCode 1 = some .null ∧ RequestKind.null.bodyLength ≠ (1 : Byte).toNat) := by decide +kernel
theorem witness_ValidFramesArePlacedOrAnswered :
    ([] : List Byte).length = RequestKind.null.bodyLength ∧ frameCheck ([RequestKind.null.code, 1, 0, 7,
      BitVec.ofNat 8 RequestKind.null.bodyLength] ++ []) = (0x54 : Byte) ++ (0x7E : Byte)
    ∧ (full.port 0).state ≠ .draining ∧ (((full.modPort 0 fun q => { q with state := .draining }).port 0).state = .draining)
    ∧ (((full.modPort 0 fun q => { q with normalLane := List.replicate 32 (ask .null []) }).port 0).lane .normal).length = 32 := by
  decide +kernel
theorem witness_ResponsesJoinAndLeaveTheTransmitOrder : ((full.answer 0 (ask .null []) (bare .ok)).port 0).transmit
    = Response.mk .null 0x1234 .ok false false false .empty :: [] := by decide +kernel
theorem witness_TheArbiterServesUrgentLanesFirstInTurn :
    atWork.arbiterChoice = some (.urgent, 0, ask .admission (admission 3 0 3)) ∧ full.arbiterChoice = none
    ∧ (asks full .normal (ask .null [])).arbiterChoice = some (.normal, 0, ask .null []) := by decide +kernel
theorem witness_RequestsAreCheckedBeforeTheirRule :
    (asks { full with tableOpen := false } .normal (ask .null [])).arbiterChoice = some (.normal, 0, ask .null [])
    ∧ [ask .lookup [16, 0, 0, 0, 0, 0], ask .admission (admission 1 0x10 0), ask .admission (admission 16 0 0),
        ask .confirm [0x40, 0, 1], ask .amend (about 0 [0, 0, 0, 0, 0, 0, 0]), ask .amend (about 0 [5, 0, 0, 0, 0, 0, 0]),
        ask .resize (about 0 [0x10, 0]), ask .move (about 0 [16]), ask .fetch [0], ask .fetch [9], ask .cellStatus [16]].all
      (fun r => decide ((asks full .normal r).arbiterChoice = some (.normal, 0, r))) = true
    ∧ 15 < (ask .lookup [16, 0, 0, 0, 0, 0]).byteAt 0 ∧ 4095 < ((ask .admission (admission 1 0x10 0)).halfAt 7).toNat
    ∧ 16383 < ((ask .confirm [0x40, 0, 1]).halfAt 0).toNat ∧ 4095 < ((ask .resize (about 0 [0x10, 0])).halfAt 3).toNat
    ∧ (asks full .urgent (ask .admission (admission 1 0 1))).arbiterChoice = some (.urgent, 0, ask .admission (admission 1 0 1))
    ∧ (full.classAt (ask .admission (admission 1 0 1)).cls).emergency = false := by decide +kernel

/-- A request handed over, in range, while the table is open. -/
theorem handed {s : State} {k : RequestKind} {l : Lane} {p : PortIx} {r : Request}
    (h : s.arbiterChoice = some (l, p, r) ∧ r.kind = k ∧ s.tableOpen = true ∧ r.malformed = false) : s.serves k l p r := h

/-- A handle that a port may act on. -/
theorem reached {s : State} {p : PortIx} {h : Handle} {ses : Session} {st : Stage} (a : s.liveAt h.index = some (ses, st)
    ∧ s.handleOf h.index = h ∧ h.generation ≠ 0 ∧ (s.cell ses.key.cell).owner = p) : s.resolves p h ses st :=
  ⟨⟨a.1, a.2.1, a.2.2.1⟩, a.2.2.2⟩

/-- Cell 0 owned by port 1, so that port 0 owns nothing of it. -/
def elsewhere : State := inCell full fun k => { k with owner := 1 }

theorem witness_HandlesAndStatesAreChecked :
    (asks full .normal (ask .query [0, 0, 2])).serves .query .normal 0 (ask .query [0, 0, 2])
    ∧ (∀ ses st, ¬ (asks full .normal (ask .query [0, 0, 2])).named (ask .query [0, 0, 2]).handle ses st)
    ∧ (asks elsewhere .normal (ask .resize (about 0 [0, 0]))).serves .resize .normal 0 (ask .resize (about 0 [0, 0]))
    ∧ (asks elsewhere .normal (ask .resize (about 0 [0, 0]))).named (ask .resize (about 0 [0, 0])).handle walker (.active 0)
    ∧ ((asks elsewhere .normal (ask .resize (about 0 [0, 0]))).cell walker.key.cell).owner ≠ 0
    ∧ (asks full .normal (ask .move (about 1 [1]))).serves .move .normal 0 (ask .move (about 1 [1]))
    ∧ (asks full .normal (ask .move (about 1 [1]))).resolves 0 (ask .move (about 1 [1])).handle waiter (.queued 0 0 0)
    ∧ (Stage.queued 0 0 0).isAdmitted = false := by
  refine ⟨handed (by decide +kernel), fun ses st h => absurd h.2.1 (by decide +kernel), handed (by decide +kernel), ?_,
    by decide +kernel, handed (by decide +kernel), reached (by decide +kernel), rfl⟩
  exact ⟨by decide +kernel, by decide +kernel, by decide⟩
theorem witness_ConfirmActivatesASetupRecord :
    (asks full .normal (ask .confirm (about 2 []))).serves .confirm .normal 0 (ask .confirm (about 2 []))
    ∧ (asks full .normal (ask .confirm (about 2 []))).resolves 0 (ask .confirm (about 2 [])).handle comer (.setup 0 (some 0))
    ∧ (asks full .normal (ask .confirm (about 0 []))).resolves 0 (ask .confirm (about 0 [])).handle walker (.active 0)
    ∧ (asks full .normal (ask .confirm (about 3 []))).resolves 0 (ask .confirm (about 3 [])).handle holder
      (.held [Handle.mk 4 1] 2 1 0) :=
  ⟨handed (by decide +kernel), reached (by decide +kernel), reached (by decide +kernel), reached (by decide +kernel)⟩

/-- An Amend of record 1, which is QUEUED. -/
def amending (op : Byte) : Request := ask .amend (about 1 [op, 0, 0xFF, 0, 0, 0, 0])

theorem witness_AmendsChangeTheTagsAlone :
    (∀ op ∈ [1, 2, 3, 4], (asks full .normal (amending op)).arbiterChoice = some (.normal, 0, amending op)
      ∧ (amending op).malformed = false ∧ (amending op).byteAt 3 = op.toNat)
    ∧ (asks full .normal (amending 4)).resolves 0 (amending 4).handle waiter (.queued 0 0 0) :=
  ⟨by decide +kernel, reached (by decide +kernel)⟩
theorem witness_LookupAndQueryReport :
    (asks elsewhere .normal (ask .lookup [0, 0, 0, 0, 0, 0])).serves .lookup .normal 0 (ask .lookup [0, 0, 0, 0, 0, 0])
    ∧ ((asks elsewhere .normal (ask .lookup [0, 0, 0, 0, 0, 0])).cell (ask .lookup [0, 0, 0, 0, 0, 0]).key.cell).owner ≠ 0
    ∧ (asks full .normal (ask .lookup [0, 0, 0, 0, 0, 0])).directoryExact
    ∧ (asks full .normal (ask .lookup [0, 0, 0, 0, 0, 0])).liveAt 0 = some (walker, .active 0)
    ∧ walker.key = (ask .lookup [0, 0, 0, 0, 0, 0]).key
    ∧ (∀ i ses st, (asks full .normal (ask .lookup [2, 0, 0, 0, 0, 0])).liveAt i = some (ses, st) →
        ses.key ≠ (ask .lookup [2, 0, 0, 0, 0, 0]).key)
    ∧ (asks full .normal (ask .query (about 5 []))).serves .query .normal 0 (ask .query (about 5 []))
    ∧ (asks full .normal (ask .query (about 5 []))).resolves 0 (ask .query (about 5 [])).handle guest (.active 0) := by
  refine ⟨handed (by decide +kernel), by decide +kernel, (crowd_storeExact 10 3 1000).2.2.2.1, by decide +kernel, by decide +kernel,
    fun i ses st h => ?_, handed (by decide +kernel), reached (by decide +kernel)⟩
  change full.liveAt i = _ at h
  by_cases hi : i < 6
  · match i, hi with
    | 0, _ | 1, _ | 2, _ | 3, _ | 4, _ | 5, _ => cases h; decide
  · rw [full, crowd_live _ _ _ _ (Nat.le_of_not_lt hi)] at h; cases h
theorem witness_QueryBodyLaysTheFieldsOut :
    (5 ≤ 16383 ∧ 255 ≤ 255 ∧ holder.level ≤ 15 ∧ holder.grace ≤ 65535 ∧ holder.setupGuard ≤ 65535 ∧ holder.demand ≤ 4095)
    ∧ (Stage.ceding 0 (some (Handle.mk 16383 255)) 0).beneficiary? = some (Handle.mk 16383 255)
    ∧ (Stage.held [Handle.mk 4 1] 69630 65535 69629).held? = some ([Handle.mk 4 1], 69630, 65535, 69629) := by decide
theorem witness_CellStatusAndNullOnlyReport :
    (asks full .normal (ask .cellStatus [15])).serves .cellStatus .normal 0 (ask .cellStatus [15])
    ∧ (asks full .normal (ask .cellStatus [15])).storeCanonical = true
    ∧ (asks full .normal (ask .null [])).serves .null .normal 0 (ask .null []) :=
  ⟨handed (by decide +kernel), by decide +kernel, handed (by decide +kernel)⟩

/-- A Resize of record 0, of demand 6, in the crowd with room: its limit is 100 and the use 10. -/
def resizing (d : Byte) : Request := ask .resize (about 0 [0, d])

theorem witness_ResizeChangesTheDemand :
    (∀ d ∈ [0, 6, 7, 96, 97], (asks roomy .normal (resizing d)).arbiterChoice = some (.normal, 0, resizing d)
      ∧ (resizing d).malformed = false)
    ∧ (asks roomy .normal (resizing 0)).resolves 0 (resizing 0).handle walker (.active 0) ∧ (Stage.active 0).isAdmitted = true
    ∧ max 1 ((resizing 6).halfAt 3).toNat = walker.demand ∧ max 1 ((resizing 0).halfAt 3).toNat < walker.demand
    ∧ (roomy.cell 0).use + (max 1 ((resizing 96).halfAt 3).toNat - walker.demand) = (roomy.cell 0).limitOf false
    ∧ (roomy.cell 0).limitOf false < (roomy.cell 0).use + (max 1 ((resizing 97).halfAt 3).toNat - walker.demand) :=
  ⟨by decide +kernel, reached (by decide +kernel), rfl, by decide +kernel⟩

/-- A Move of record i to a cell, and the crowd with cell 1 changed. -/
def moving (i c : Byte) : Request := ask .move (about i [c])
def aside (f : Cell → Cell) : State := full.modCell 1 f

theorem witness_MovesAreRefusedInOrder :
    (asks full .normal (moving 0 1)).serves .move .normal 0 (moving 0 1)
    ∧ (asks full .normal (moving 0 1)).resolves 0 (moving 0 1).handle walker (.active 0)
    ∧ ((aside fun k => { k with owner := 3 }).cell 1).owner ≠ 0 ∧ ((aside fun k => { k with state := .closed }).cell 1).state = .closed
    ∧ ((aside fun k => { k with state := .draining }).cell 1).state = .draining
    ∧ ((aside fun k => { k with state := .barred }).cell 1).state = .barred ∧ walker.emergency = false
    ∧ full.findKey (Key.mk 1 comer.key.terminal comer.key.bearer) = some (Handle.mk 5 1)
    ∧ full.findKey (Key.mk 1 walker.key.terminal walker.key.bearer) = none
    ∧ ((aside fun k => { k with capacity := 6 }).cell 1).limitOf false - ((aside fun k => { k with capacity := 6 }).cell 1).use
      < walker.demand
    ∧ (asks full .normal (moving 0 0)).directoryExact ∧ (moving 0 0).malformed = false :=
  ⟨handed (by decide +kernel), reached (by decide +kernel), by decide +kernel, by decide +kernel, by decide +kernel, by decide +kernel,
    by decide +kernel, by decide +kernel, by decide +kernel, by decide +kernel, (crowd_storeExact 10 3 1000).2.2.2.1, by decide +kernel⟩
theorem witness_MoveCarriesTheSession :
    (asks full .normal (moving 0 1)).serves .move .normal 0 (moving 0 1)
    ∧ (asks full .normal (moving 0 1)).resolves 0 (moving 0 1).handle walker (.active 0)
    ∧ (1 : CellIx) ≠ walker.key.cell ∧ ((asks full .normal (moving 0 1)).cell 1).owner = 0
    ∧ ((asks full .normal (moving 0 1)).cell 1).state = .opened
    ∧ (asks full .normal (moving 0 1)).findKey (Key.mk 1 walker.key.terminal walker.key.bearer) = none
    ∧ (asks full .normal (moving 0 1)).fits 1 walker.emergency walker.demand :=
  ⟨handed (by decide +kernel), reached (by decide +kernel), by decide +kernel, by decide +kernel, by decide +kernel, by decide +kernel,
    by unfold State.fits; decide +kernel⟩
theorem witness_ReleaseGivesUpAndRetires :
    (∀ i ∈ [0, 1, 2, 3, 4], (asks full .normal (ask .release (about i []))).arbiterChoice
      = some (.normal, 0, ask .release (about i [])) ∧ (ask .release (about i [])).malformed = false)
    ∧ (asks full .normal (ask .release (about 4 []))).resolves 0 (ask .release (about 4 [])).handle leaver
      (.ceding 0 (some (Handle.mk 3 1)) 0) := ⟨by decide +kernel, reached (by decide +kernel)⟩
theorem witness_GivingUpFollowsTheState : (0 : CellIx) = holder.key.cell ∧ 0 + 0 = 0 ∧ 1 + 0 ≠ 0 := by decide
theorem witness_VictimExitPassesUnits :
    full.liveAt 4 = some (leaver, .ceding 0 (some (Handle.mk 3 1)) 0)
    ∧ full.named (Handle.mk 3 1) holder (.held [Handle.mk 4 1] 2 1 0) ∧ holder.key.cell = leaver.key.cell
    ∧ 0 + min leaver.demand (2 - 0) = 2 ∧ 0 + min leaver.demand (3 - 0) ≠ 3
    ∧ (full.setLive 3 holder (.held [Handle.mk 4 1] 3 1 0)).named (Handle.mk 3 1) holder (.held [Handle.mk 4 1] 3 1 0)
    ∧ (full.setLive 4 leaver (.ceding 0 none 0)).liveAt 4 = some (leaver, .ceding 0 none 0) := by
  refine ⟨by decide +kernel, ⟨by decide +kernel, by decide +kernel, by decide⟩, by decide, by decide, by decide, ?_,
    by decide +kernel⟩
  exact ⟨by decide +kernel, by decide +kernel, by decide⟩

/-- An Admit of class k and demand d in port 0's normal lane, and of class 3 in its urgent lane. -/
def ordinary (k d : Byte) : Request := ask .admission (admission k 0 d)
def urgent (d : Byte) : Request := ask .admission (admission 3 0 d)

/-- A newcomer's checks, decided. -/
theorem passing {s : State} {p : PortIx} {r : Request} (a : (s.cell r.key.cell).owner = p ∧ s.findKey r.key = none
    ∧ ((s.cell r.key.cell).state = .opened ∨ (s.cell r.key.cell).state = .barred ∧ (s.classAt r.cls).emergency = true)
    ∧ 1 ≤ (s.classAt r.cls).level ∧ max 1 (r.halfAt 7).toNat ≤ (s.cell r.key.cell).limitOf (s.classAt r.cls).emergency
    ∧ (s.cell r.key.cell).level < (if (s.classAt r.cls).emergency = true then 4 else (s.classAt r.cls).refuseLevel)
    ∧ (if (s.classAt r.cls).emergency = true then 1 else 65) ≤ s.freeList.length) : s.admitPasses p r := a

/-- A newcomer that neither fits nor may preempt takes no direct route. -/
theorem indirect {s : State} {c : CellIx} {ses : Session} (h : ¬ ses.demand ≤ (s.cell c).limitOf ses.emergency - (s.cell c).use)
    (g : ¬ ((s.classAt ses.cls).mayPreempt = true ∨ (s.classAt ses.cls).emergency = true ∨ ses.emergency = true)) :
    ¬ s.goesDirect c ses := fun d => d.2.elim h fun ⟨_, t⟩ => g t.2.1

/-- A requester in a cell without a rank list takes no victims. -/
theorem unaided {s : State} {c : CellIx} {ses : Session} (h : (s.cell c).rankList = [])
    (g : ¬ (s.cell c).use + ses.demand - (s.cell c).limitOf ses.emergency ≤ 0) (victims : List Nat) :
    ¬ s.takesVictims c ses victims := fun ⟨_, _, v, hw, hv⟩ => by
  rw [h] at hw; cases hw; exact g hv

/-- The full cell without its rank list; its queue limited to the one record it holds. -/
def rankless : State := inCell full fun k => { k with rankList := [], depthLimit := 1 }

theorem witness_AdmitsAreRefusedInOrder :
    (asks full .normal (ordinary 1 1)).serves .admission .normal 0 (ordinary 1 1)
    ∧ (asks full .urgent (urgent 0)).serves .admission .urgent 0 (urgent 0) ∧ (full.classAt 3).emergency = true
    ∧ (elsewhere.cell 0).owner ≠ 0 ∧ full.findKey (ask .admission [0, 0, 0, 0, 1, 0, 1, 0, 1, 0, 0]).key = some (Handle.mk 1 1)
    ∧ full.findKey (ordinary 1 1).key = none ∧ (full.cell 0).state = .opened ∧ (full.classAt 0).level = 0
    ∧ (full.cell 0).limitOf false < 11 ∧ 10 ≤ (full.cell 0).limitOf false
    ∧ ((full.modClass 1 fun k => { k with refuseLevel := 3 }).classAt 1).refuseLevel ≤ (full.cell 0).level
    ∧ ({ full with freeList := List.range' 6 64 } : State).freeList.length < 65
    ∧ ({ full with freeList := [] } : State).freeList.length < 1 :=
  ⟨handed (by decide +kernel), handed (by decide +kernel), by decide +kernel⟩
theorem witness_AdmitAdmitsPlainly :
    (asks roomy .urgent (urgent 90)).serves .admission .urgent 0 (urgent 90) ∧ (roomy.classAt (urgent 90).cls).emergency = true
    ∧ (asks roomy .urgent (urgent 90)).admitPasses 0 (urgent 90)
    ∧ (asks roomy .urgent (urgent 90)).outranksHead 0 ((asks roomy .urgent (urgent 90)).sessionOf (urgent 90))
    ∧ (asks roomy .urgent (urgent 90)).fits 0 true 90 :=
  ⟨handed (by decide +kernel), by decide +kernel, passing (by decide +kernel), .inr ⟨1, [], by decide +kernel⟩,
    by unfold State.fits; decide +kernel⟩
theorem witness_AdmitPreemptsForANewcomer :
    (asks full .urgent (urgent 6)).serves .admission .urgent 0 (urgent 6) ∧ (asks full .urgent (urgent 6)).admitPasses 0 (urgent 6)
    ∧ (asks full .urgent (urgent 6)).outranksHead 0 ((asks full .urgent (urgent 6)).sessionOf (urgent 6))
    ∧ (asks full .urgent (urgent 6)).takesVictims 0 ((asks full .urgent (urgent 6)).sessionOf (urgent 6)) [0]
    ∧ (asks full .urgent (urgent 6)).storeExact ∧ (asks full .urgent (urgent 6)).accountsExact :=
  ⟨handed (by decide +kernel), passing (by decide +kernel), .inr ⟨1, [], by decide +kernel⟩,
    ⟨by unfold State.fits; decide +kernel, by decide +kernel, 6, by decide +kernel, by decide +kernel⟩,
    crowd_storeExact 10 3 1000, crowd_accountsExact 10 3 1000⟩
theorem witness_AdmitQueuesOrRefuses :
    (asks full .normal (ordinary 4 1)).serves .admission .normal 0 (ordinary 4 1)
    ∧ (asks full .normal (ordinary 1 1)).serves .admission .normal 0 (ordinary 1 1)
    ∧ (asks full .normal (ordinary 1 1)).admitPasses 0 (ordinary 1 1)
    ∧ ¬ (asks full .normal (ordinary 1 1)).goesDirect 0 ((asks full .normal (ordinary 1 1)).sessionOf (ordinary 1 1))
    ∧ (full.classAt 4).mayQueue = false ∧ (full.classAt 4).emergency = false ∧ (full.classAt 1).mayQueue = true
    ∧ (rankless.full 0 ∧ ((rankless.sessionOf (ordinary 1 1)).emergency = false)) ∧ ¬ full.full 0 := by
  refine ⟨handed (by decide +kernel), handed (by decide +kernel), passing (by decide +kernel), indirect (by decide +kernel)
    (by decide +kernel), by decide +kernel, by decide +kernel, by decide +kernel, ?_, ?_⟩
  · unfold State.full; decide +kernel
  · unfold State.full; decide +kernel
theorem witness_AnEmergencyNewcomerDisplaces :
    (asks rankless .urgent (urgent 6)).serves .admission .urgent 0 (urgent 6)
    ∧ ((asks rankless .urgent (urgent 6)).sessionOf (urgent 6)).emergency = true
    ∧ (asks rankless .urgent (urgent 6)).admitPasses 0 (urgent 6)
    ∧ ¬ (asks rankless .urgent (urgent 6)).goesDirect 0 ((asks rankless .urgent (urgent 6)).sessionOf (urgent 6))
    ∧ (asks rankless .urgent (urgent 6)).full 0 ∧ ((asks rankless .urgent (urgent 6)).cell 0).queue = [] ++ 1 :: []
    ∧ (asks rankless .urgent (urgent 6)).liveAt 1 = some (waiter, .queued 0 0 0) ∧ waiter.emergency = false := by
  refine ⟨handed (by decide +kernel), by decide +kernel, passing (by decide +kernel), fun d => d.2.elim
    (by unfold State.fits; decide +kernel) fun ⟨v, t⟩ => unaided (by decide +kernel) (by decide +kernel) v t, ?_,
    by decide +kernel⟩
  unfold State.full; decide +kernel
theorem witness_TheWalkTakesAPrefixOfTheRankList : 1 ≤ 6 ∧ full.victimWalk 9 6 4 0 (full.cell 0).rankList = ([0], 6)
    ∧ full.victimWalk 5 6 4 0 (full.cell 0).rankList = ([], 0) := by decide +kernel

/-- Cell 0 closed, draining, barred or owned by a DRAINING port; its queue of one. -/
theorem witness_PassesAdmitHeadsUntilOneFails :
    ((inCell full fun k => { k with state := .closed }).cell 0).state = .closed ∧ (full.cell 2).queue = []
    ∧ ((inCell full fun k => { k with state := .barred }).cell 0).state = .barred
    ∧ (rankless.cell 0).queue = 1 :: [] ∧ rankless.liveAt 1 = some (waiter, .queued 0 0 0)
    ∧ ¬ rankless.fits 0 waiter.emergency waiter.demand ∧ (∀ victims, ¬ rankless.takesVictims 0 waiter victims)
    ∧ (roomy.cell 0).state = .opened ∧ (roomy.port (roomy.cell 0).owner).state ≠ .draining ∧ (roomy.cell 0).queue = 1 :: []
    ∧ 1 ∉ ([] : List Nat) ∧ waiter.key.cell = 0 ∧ roomy.fits 0 waiter.emergency waiter.demand := by
  refine ⟨by decide +kernel, by decide +kernel, by decide +kernel, by decide +kernel, by decide +kernel, ?_,
    unaided (by decide +kernel) (by decide +kernel), by decide +kernel, by decide +kernel, by decide +kernel, by decide,
    by decide, ?_⟩ <;> unfold State.fits <;> decide +kernel

/-- The full cell with capacity 12, where the head's shortfall of 6 is the demand of the one record on the rank list. -/
theorem witness_PassesHoldAHeadThatPreempts :
    ((crowd 12 2 833).cell 0).state = .opened ∧ ((crowd 12 2 833).port ((crowd 12 2 833).cell 0).owner).state ≠ .draining
    ∧ ((crowd 12 2 833).cell 0).queue = 1 :: [] ∧ (crowd 12 2 833).liveAt 1 = some (waiter, .queued 0 0 0)
    ∧ (crowd 12 2 833).takesVictims 0 waiter [0] ∧ (crowd 12 2 833).storeExact ∧ (crowd 12 2 833).accountsExact :=
  ⟨by decide +kernel, by decide +kernel, by decide +kernel, by decide +kernel,
    ⟨by unfold State.fits; decide +kernel, by decide +kernel, 6, by decide +kernel, by decide +kernel⟩,
    crowd_storeExact 12 2 833, crowd_accountsExact 12 2 833⟩
theorem witness_RecomputeFollowsOccupancyAndHysteresis : (crowdCell 10 3 1000).level ≤ 3 ∧ Cell.reset.state = .closed
    ∧ (crowdCell 10 3 1000).state ≠ .closed ∧ (crowdCell 10 0 0).level < (crowdCell 10 0 0).recomputed.level
    ∧ (crowdCell 100 3 0).recomputed.level < (crowdCell 100 3 0).level := by decide +kernel

/-- Port 0 draining; its ring at its size of 256; its backlog in use. -/
def ended : State := full.modPort 0 fun q => { q with state := .draining }
def brimming : State := full.modPort 0 fun q => { q with ring := List.replicate 256 (.level 1 0) }

theorem witness_NoticesArePlacedOrCoalesced :
    full.liveAt 1 = some (waiter, .queued 0 0 0) ∧ (full.cell waiter.key.cell).owner = 0 ∧ (ended.port 0).state = .draining
    ∧ (full.port 0).state ≠ .draining ∧ (full.port 0).backlog = [] ∧ (full.port 0).ring.length < (full.port 0).ringSize
    ∧ (brimming.port 0).state ≠ .draining ∧ (brimming.port 0).ringSize ≤ (brimming.port 0).ring.length := by decide +kernel
theorem witness_TheAttentionLineFollowsTheRing :
    ((full.modPort 0 fun q => { q with attnPulse := true, pulseStop := some 0 }).port 0).pulseStop = some full.tick
    ∧ (full.port 0).attnEnable = false ∧ ({ full.port 0 with attnEnable := true } : Port).attnEnable = true
    ∧ (brimming.port 0).ring ≠ [] ∧ (brimming.port 0).pulseStop = none := by decide +kernel
theorem witness_FetchReturnsTheHeadOfTheRing :
    (asks full .normal (ask .fetch [8])).serves .fetch .normal 0 (ask .fetch [8])
    ∧ (((asks full .normal (ask .fetch [8])).handOver .normal 0).port 0).ringBounded ∧ full.backlogExact := by
  refine ⟨handed (by decide +kernel), ?_, crowd_backlogExact _ _ _⟩
  unfold Port.ringBounded; decide +kernel
theorem witness_PortsEnterDraining :
    (asks full .normal (ask .withdraw [])).arbiterChoice = some (.normal, 0, ask .withdraw []) ∧ full.backlogExact
    ∧ (({ full with tick := 5000, supervision := 5000 } : State).port 0).state = .up ∧ 5000 ≠ 0 ∧ 5000 ≤ 5000
    ∧ (5000 : Tick) = (full.port 0).timestamp + BitVec.ofNat 32 5000 := by
  refine ⟨by decide +kernel, crowd_backlogExact _ _ _, by decide +kernel⟩
theorem witness_DeadlinesExpireAtTheirTick : full.liveAt 2 = some (comer, .setup 0 (some full.tick))
    ∧ full.liveAt 1 = some (waiter, .queued 0 0 full.tick) ∧ (full.cell 0).queue.head? = some 1
    ∧ full.liveAt 4 = some (leaver, .ceding 0 (some (Handle.mk 3 1)) full.tick) := by decide +kernel
theorem witness_DrainsFollowTheOrder : full.cellExact 0 ∧ full.cellExact 1 ∧ full.cellExact 2 ∧ full.storeCanonical = true
    ∧ (full.cell 0).queue = [] ++ [1] ∧ (full.cell 1).queue = [] ∧ full.nextToDrain 1 = some 5 ∧ full.nextToDrain 2 = none :=
  ⟨crowd_cellExact _ _ _ 0, crowd_cellExact _ _ _ 1, crowd_cellExact _ _ _ 2, by decide +kernel⟩

/-- A drain job of cell 2 or of port 1, which hold nothing, and of cell 0 or port 0, which hold records. -/
def working (j : Job) : State := { full with job := some j }

theorem witness_DrainsCompleteWhenNothingIsLeft :
    full.storeCanonical = true ∧ (full.liveAt 0 = some (walker, .active 0) ∧ walker.key.cell = 0)
    ∧ (∀ i ses st, full.liveAt i = some (ses, st) → ses.key.cell ≠ 2)
    ∧ (working (.cellDrain 2)).nextToDrain 2 = none ∧ (working (.portDrain 1)).nextOfPort 1 = none
    ∧ (∀ i ses st, full.liveAt i = some (ses, st) → (full.cell ses.key.cell).owner ≠ 1) := by
  refine ⟨by decide +kernel, by decide +kernel, fun i ses st h => ?_, by decide +kernel, by decide +kernel, fun i ses st h => ?_⟩
  all_goals
    by_cases hi : i < 6
    · match i, hi with
      | 0, _ | 1, _ | 2, _ | 3, _ | 4, _ | 5, _ => cases h; decide +kernel
    · rw [full, crowd_live _ _ _ _ (Nat.le_of_not_lt hi)] at h; cases h
theorem witness_DrainJobsStartAndStep :
    (full.job = none ∧ full.chosen = none ∧ ((full.modPort 3 fun q => { q with drainFlag := true }).port 3).drainFlag = true
      ∧ (∀ o : PortIx, o < 3 → ((full.modPort 3 fun q => { q with drainFlag := true }).port o).drainFlag = false))
    ∧ (drainsPending.job = none ∧ drainsPending.chosen = some (.portDrain 3))
    ∧ (∀ o, (full.port o).drainFlag = false) ∧ ((full.modCell 15 fun k => { k with drainFlag := true }).cell 15).drainFlag = true
    ∧ (∀ d : CellIx, d < 15 → ((full.modCell 15 fun k => { k with drainFlag := true }).cell d).drainFlag = false)
    ∧ (working (.cellDrain 0)).nextToDrain 0 = some 1 ∧ (working (.portDrain 0)).nextToDrain 0 = some 1
    ∧ (full.cell 0).owner = 0 := by decide +kernel
theorem witness_TransactionsBeginAndEnd : (0 : Byte) ≠ 0x03 ∧ (0 : Byte) ≠ 0x02 ∧ (writing full 0x10).writesAt 0x10 :=
  ⟨by decide, by decide, rfl⟩
theorem witness_ReadsReturnAndCaptureTheField :
    (reading full 0xFFFF).transaction = some (Transaction.mk .read 0xFFFF) ∧ locate 0xFFFF = none
    ∧ locate 0x0000 = some (.vendorCode, .whole) ∧ locate 0x04F8 = some (.classMaxWait 15, .high)
    ∧ locate 0x04F9 = some (.classMaxWait 15, .low) ∧ (full.port 3).ringSize = 64 * 2 ^ 2 ∧ (2 ≤ 3)
    ∧ (∀ a ∈ [0x04, 0x2F, 0x48, 0x2FA, 0x4FA, 0xFFFF], namesNoField a)
    ∧ ∀ a ∈ [0x03, 0x47, 0x2F9, 0x4F9], ¬ namesNoField a := by
  refine ⟨by decide +kernel, by decide +kernel, by decide +kernel, by decide +kernel, by decide +kernel, by decide +kernel,
    by decide, ?_, ?_⟩ <;> unfold namesNoField <;> decide
theorem witness_PlainWritesStoreTheirFields :
    (writing full 0x102).writesAt 0x102 ∧ locate (BitVec.ofNat 16 0x102) = some (.capacity 0, .high)
    ∧ (Field.capacity 0).writableHalf = true ∧ (writing full 0x300).writesAt 0x300 ∧ locate (BitVec.ofNat 16 0x300) = none
    ∧ (writing full 0x2EC).writesAt (0x10C + 32 * (15 : CellIx).val) ∧ (writing full 0x4F9).writesAt (0x400 + 16 * (15 : ClassIx).val + 9)
    ∧ (namesNoField 0xFFFF ∧ isReadOnly 0x15 ∧ isReadOnly 0x47 ∧ isReadOnly 0x2F9)
    ∧ ((writing full 0x10).writesAt 0x10 ∧ (3 : Byte) ≠ 1 ∧ (3 : Byte) ≠ 2)
    ∧ ((writing full 0x2F8).writesAt (0x118 + 32 * (15 : CellIx).val) ∧ 5 < (6 : Byte).toNat) :=
  ⟨rfl, by decide, rfl, rfl, by decide, rfl, rfl, ⟨by unfold namesNoField; decide, .inl (by decide),
    .inr (.inl ⟨3, 5, by decide, by decide⟩), .inr (.inr ⟨15, 0x19, by decide, by decide⟩)⟩, ⟨rfl, by decide, by decide⟩, rfl, by decide⟩
theorem witness_TableResetEmptiesTheTable : (writing full 0x10).writesAt 0x10 ∧ (writing full 0x10).storeCanonical = true
    ∧ (writing full 0x10).settingsInRange := by
  refine ⟨rfl, by decide +kernel, ?_⟩
  unfold State.settingsInRange Cell.inRange ServiceClass.inRange Port.inRange; decide +kernel
theorem witness_CellCommandsMoveTheCell : (writing full 0x118).writesAt (0x118 + 32 * (0 : CellIx).val) ∧ (full.cell 0).state = .opened
    ∧ ((writing full 0x2F8).writesAt (0x118 + 32 * (15 : CellIx).val) ∧ (full.cell 15).state = .closed)
    ∧ ((inCell full fun k => { k with state := .barred }).cell 0).state = .barred
    ∧ ((inCell full fun k => { k with state := .draining }).cell 0).state = .draining :=
  ⟨rfl, by decide +kernel, ⟨rfl, by decide +kernel⟩, by decide +kernel, by decide +kernel⟩
theorem witness_CellWritesRecomputeAndServe :
    (writing full 0x103).writesAt (0x103 + 32 * (0 : CellIx).val) ∧ (writing full 0x105).writesAt (0x105 + 32 * (0 : CellIx).val)
    ∧ (writing full 0x10B).writesAt (0x107 + 2 * 2 + 32 * (0 : CellIx).val) ∧ (full.holding ++ (10 : Byte)).toNat = (full.cell 0).capacity
    ∧ (full.holding ++ (11 : Byte)).toNat ≠ (full.cell 0).capacity ∧ { full.cell 0 with t3 := 1 } ≠ full.cell 0
    ∧ { full.cell 0 with t3 := 950 } = full.cell 0 := ⟨rfl, rfl, rfl, by decide +kernel⟩
theorem witness_OwnerAndDepthLimitWrites :
    (writing full 0x2E1).writesAt (0x101 + 32 * (15 : CellIx).val) ∧ (full.cell 15).state = .closed ∧ (full.cell 15).pendingLevel = false
    ∧ (writing full 0x101).writesAt (0x101 + 32 * (0 : CellIx).val) ∧ (full.cell 0).state ≠ .closed
    ∧ (writing full 0x10D).writesAt (0x10D + 32 * (0 : CellIx).val) ∧ (writing full 0x10D).storeExact ∧ (writing full 0x10D).accountsExact :=
  ⟨rfl, by decide +kernel, by decide +kernel, rfl, by decide +kernel, rfl, crowd_storeExact 10 3 1000, crowd_accountsExact 10 3 1000⟩
theorem witness_AgingWeightWritesReorderTheQueues :
    (writing { full with holding := 3 } 0x21).writesAt 0x21 ∧ min 4095 ((3 : Byte) ++ (0xE8 : Byte)).toNat = full.agingWeight
    ∧ min 4095 ((0xFF : Byte) ++ (0xFF : Byte)).toNat ≠ full.agingWeight ∧ full.storeCanonical = true ∧ (∀ c, full.cellExact c)
    ∧ (∀ i ses a va d, full.liveAt i = some (ses, .queued a va d) → ses.level ≤ 15 ∧ (full.tick - a).toNat ≤ 65535) := by
  refine ⟨rfl, by decide +kernel, by decide +kernel, by decide +kernel, crowd_cellExact _ _ _, fun i ses a va d h => ?_⟩
  by_cases hi : i < 6
  · match i, hi with
    | 0, _ | 2, _ | 3, _ | 4, _ | 5, _ => cases h
    | 1, _ => cases h; decide
  · rw [full, crowd_live _ _ _ _ (Nat.le_of_not_lt hi)] at h; cases h
theorem witness_SupervisionWritesJudgeTheAges :
    (writing { full with supervision := 5000, tick := 10 } 0x23).writesAt 0x23
    ∧ min 5000 ((0x13 : Byte) ++ (0x88 : Byte)).toNat = 5000 ∧ min 5000 ((0 : Byte) ++ (10 : Byte)).toNat ≠ 5000
    ∧ min 5000 ((0 : Byte) ++ (0 : Byte)).toNat = 0 ∧ full.supervision = 0 ∧ full.backlogExact ∧ full.engineExact
    ∧ 10 ≤ ((10 : Tick) - (full.port 0).timestamp).toNat :=
  ⟨rfl, by decide, by decide, by decide, rfl, crowd_backlogExact _ _ _, by unfold State.engineExact; decide +kernel, by decide +kernel⟩
theorem witness_PortWritesTakeTheirSettings :
    (writing full 0x43).writesAt (0x31 + 6 * (3 : PortIx).val) ∧ (writing full 0x32).writesAt (0x32 + 6 * (0 : PortIx).val)
    ∧ (writing full 0x42).writesAt (0x30 + 6 * (3 : PortIx).val) ∧ (full.port 3).attnEnable = false
    ∧ ({ full.port 3 with attnEnable := true } : Port).attnEnable = true ∧ (1 : Byte).getLsbD 0 = true
    ∧ (full.port 3).ring = [] ∧ (full.port 3).backlog = [] := ⟨rfl, rfl, rfl, by decide +kernel⟩

end Sys2Proof.Tests
end

section
/-! Proofs of the statements about Confirm, Amend and Resize (chapter 5). -/

namespace Sys2Proof.Machine

/-! ### A request served by its own rule -/

/-- A served request of the command's kind is answered by its own rule in the state after the hand-over (R169, R171, R173). -/
theorem State.serve_served {s : State} {kind : RequestKind} {l : Lane} {p : PortIx} {r : Request} {wanted : Request → Bool}
    {act : PortIx → Request → State → State × Reply} (hs : s.serves kind l p r) (hw : wanted r = true) :
    s.serve wanted (fun p _ r t => t.engine p r r.malformed (act p r))
      = .next ((act p r (s.handOver l p)).1.answer p r (act p r (s.handOver l p)).2) := by
  obtain ⟨hchoice, -, hopen, hbody⟩ := hs
  rw [State.serve_taken hchoice hw, hbody, State.engine_open (by rwa [State.handOver_tableOpen])]

/-- A served request whose handle resolves is answered by its rule on the record (R6). -/
theorem State.serve_resolved {s : State} {kind : RequestKind} {l : Lane} {p : PortIx} {r : Request} {ses : Session} {st : Stage}
    {wanted : Request → Bool} {act : Request → State → Session → Stage → State × Reply} (hs : s.serves kind l p r)
    (hr : s.resolves p r.handle ses st) (hw : wanted r = true) :
    s.serve wanted (fun p _ r t => t.engine p r r.malformed fun u => u.withRecord p r (act r u))
      = .next ((act r (s.handOver l p) ses st).1.answer p r (act r (s.handOver l p) ses st).2) := by
  rw [State.serve_served (act := fun p r u => u.withRecord p r (act r u)) hs hw,
    State.withRecord_resolved (State.handOver_resolves hr)]

/-- A live record given a session and a stage after the hand-over: beside that record, only the hand-over shows. -/
theorem State.setLive_handOver_effect (s : State) (l : Lane) (p : PortIx) (i : Nat) (ses : Session) (st : Stage) :
    ((s.handOver l p).setLive i ses st).record i = { s.record i with life := .live ses st }
    ∧ RecordsKept s ((s.handOver l p).setLive i ses st) [i]
    ∧ { (s.handOver l p).setLive i ses st with records := s.records } = s.handOver l p := by
  refine ⟨?_, fun j hj => ?_, ?_⟩
  · rw [State.record_setLive, if_pos rfl, State.handOver_record]
  · rw [State.recordsKept_setLive _ _ _ _ j hj, State.handOver_record]
  · rw [← State.handOver_records s l p]; rfl

/-! ### Confirm -/

/-- Confirm of a resolved record carries out its rule there (R90). -/
theorem State.exec_confirm {s : State} {l : Lane} {p : PortIx} {r : Request} {ses : Session} {st : Stage}
    (hs : s.serves .confirm l p r) (hr : s.resolves p r.handle ses st) :
    exec .confirmRequest s = .next (((s.handOver l p).confirmRecord r ses st).1.answer p r
      ((s.handOver l p).confirmRecord r ses st).2) :=
  State.serve_resolved (act := fun r u => u.confirmRecord r) hs hr (decide_eq_true hs.2.1)

/-- Confirm finds a record that is neither SETUP nor ACTIVE in the wrong state (R88, R90). -/
theorem State.confirmRecord_wrongState {s : State} {r : Request} {ses : Session} {st : Stage} (h : st.isAdmitted = false) :
    s.confirmRecord r ses st = s.wrongState r := by
  cases st with
  | queued _ _ _ => rfl
  | held _ _ _ _ => rfl
  | ceding _ _ _ => rfl
  | setup _ _ => cases h
  | active _ => cases h

/-- Settles O22, by the three outcomes of Confirm's rule on a resolved record. -/
theorem confirmActivatesASetupRecord : Obligations.ConfirmActivatesASetupRecord := by
  intro s l p r ses stamp hs
  refine ⟨fun g hr => ?_, fun hr => State.exec_confirm hs hr, fun st hr hst => ?_⟩
  · exact ⟨(s.handOver l p).setLive r.handle.index ses (.active stamp), State.exec_confirm hs hr,
      State.setLive_handOver_effect ..⟩
  · rw [State.exec_confirm hs hr, State.confirmRecord_wrongState hst]
    simp only [State.wrongState, State.handOver_record]
    rfl

/-! ### Amend: the bits of the tags word -/

/-- Two words agree under a mask exactly when they agree at every bit the mask selects (R102). -/
theorem masked_eq_iff (x y mask : Half) :
    x &&& mask = y &&& mask ↔ ∀ k, mask.getLsbD k = true → x.getLsbD k = y.getLsbD k := by
  constructor
  · intro h k hk
    simpa [hk] using congrArg (BitVec.getLsbD · k) h
  · intro h
    refine BitVec.eq_of_getLsbD_eq fun k _ => ?_
    cases hk : mask.getLsbD k with
    | true => simp [hk, h k hk]
    | false => simp [hk]

/-- The part a mask selects is 0 exactly when each selected bit is 0 (R101). -/
theorem masked_eq_zero_iff (x mask : Half) : x &&& mask = 0#16 ↔ ∀ k, mask.getLsbD k = true → x.getLsbD k = false := by
  simpa using masked_eq_iff x 0#16 mask

/-- CLEAR makes the bits of the mask 0 and leaves the others (R100). -/
theorem getLsbD_and_not (x mask : Half) (k : Nat) :
    (x &&& ~~~mask).getLsbD k = (x.getLsbD k && !mask.getLsbD k) := by
  by_cases hk : k < 16
  · simp [hk]
  · simp [BitVec.getLsbD_of_ge x k (by omega)]

/-- EXCHANGE takes the value's bits where the mask selects, when the selected part matches (R102). -/
theorem exchangeTags_getLsbD (tags mask comparand value : Half) (k : Nat) :
    (exchangeTags tags mask comparand value).getLsbD k
      = if decide (tags &&& mask = comparand &&& mask) && mask.getLsbD k then value.getLsbD k else tags.getLsbD k := by
  unfold exchangeTags
  by_cases h : tags &&& mask = comparand &&& mask
  · rw [if_pos h, BitVec.getLsbD_or, getLsbD_and_not, BitVec.getLsbD_and]
    cases mask.getLsbD k <;> simp [h]
  · simp [h]

/-! ### Amend: the command -/

/-- An Amend in range carries one of the four operations (R99, R173). -/
theorem Request.operation_cases {r : Request} (hk : r.kind = .amend) (hm : r.malformed = false) :
    r.operation = 1 ∨ r.operation = 2 ∨ r.operation = 3 ∨ r.operation = 4 := by
  simp only [Request.malformed, hk, Bool.or_eq_false_iff, decide_eq_false_iff_not] at hm
  omega

/-- The Amend command of an operation takes an Amend that carries it. -/
theorem Request.isAmend_of_operation {r : Request} {op : Nat} (hk : r.kind = .amend) (hop : r.operation = op) :
    r.isAmend op = true := by
  simp [Request.isAmend, hk, hop]

/-- The Amend that the arbiter hands over gives the tags word of the record at a handle this new value, answers the old and the
new word with these conditions, and leaves everything else but the hand-over (R99). -/
def AmendsTo (s : State) (l : Lane) (p : PortIx) (r : Request) (ses : Session) (st : Stage) (new : Half) (zero isMatch : Bool) :
    Prop :=
  ∃ w : State, exec (commandOf r) s = .next (w.answer p r (Reply.mk .ok zero isMatch false (.amend ses.tags new)))
    ∧ w.record r.handle.index = { s.record r.handle.index with life := .live { ses with tags := new } st }
    ∧ RecordsKept s w [r.handle.index] ∧ { w with records := s.records } = s.handOver l p

/-- An Amend that stores a word changes the tags alone (R99). -/
theorem AmendsTo.of_amendTags {s : State} {l : Lane} {p : PortIx} {r : Request} {ses : Session} {st : Stage} {new : Half}
    {isMatch : Bool} (h : exec (commandOf r) s = .next (((s.handOver l p).amendTags r ses st new isMatch).1.answer p r
      ((s.handOver l p).amendTags r ses st new isMatch).2)) : AmendsTo s l p r ses st new (decide (new = 0#16)) isMatch :=
  ⟨(s.handOver l p).setLive r.handle.index { ses with tags := new } st, h, State.setLive_handOver_effect ..⟩

section
variable {s : State} {l : Lane} {p : PortIx} {r : Request} {ses : Session} {st : Stage}

/-- SET stores the union with the mask (R100). -/
theorem amendSet_amendsTo (hs : s.serves .amend l p r) (hr : s.resolves p r.handle ses st) (hop : r.operation = 1) :
    commandOf r = .amendSet ∧ AmendsTo s l p r ses st (ses.tags ||| r.mask) (decide (ses.tags ||| r.mask = 0#16)) false := by
  have hc : commandOf r = .amendSet := by simp [commandOf, hs.2.1, hop]
  refine ⟨hc, .of_amendTags ?_⟩
  rw [hc]
  exact State.serve_resolved (act := fun r u ses st => u.amendTags r ses st (ses.tags ||| r.mask) false) hs hr
    (Request.isAmend_of_operation hs.2.1 hop)

/-- CLEAR stores the word without the mask (R100). -/
theorem amendClear_amendsTo (hs : s.serves .amend l p r) (hr : s.resolves p r.handle ses st) (hop : r.operation = 2) :
    commandOf r = .amendClear
    ∧ AmendsTo s l p r ses st (ses.tags &&& ~~~r.mask) (decide (ses.tags &&& ~~~r.mask = 0#16)) false := by
  have hc : commandOf r = .amendClear := by simp [commandOf, hs.2.1, hop]
  refine ⟨hc, .of_amendTags ?_⟩
  rw [hc]
  exact State.serve_resolved (act := fun r u ses st => u.amendTags r ses st (ses.tags &&& ~~~r.mask) false) hs hr
    (Request.isAmend_of_operation hs.2.1 hop)

/-- TEST stores nothing, so the record keeps the word it has (R101). -/
theorem amendTest_amendsTo (hs : s.serves .amend l p r) (hr : s.resolves p r.handle ses st) (hop : r.operation = 3) :
    commandOf r = .amendTest ∧ AmendsTo s l p r ses st ses.tags (decide (ses.tags &&& r.mask = 0#16)) false := by
  have hc : commandOf r = .amendTest := by simp [commandOf, hs.2.1, hop]
  have hlife : (s.record r.handle.index).life = .live ses st := State.liveAt_eq_some.1 hr.1.1
  refine ⟨hc, s.handOver l p, ?_, ?_, fun i _ => State.handOver_record .., ?_⟩
  · rw [hc]
    exact State.serve_resolved (act := fun r u ses _ =>
      (u, Reply.mk .ok (decide (ses.tags &&& r.mask = 0#16)) false false (.amend ses.tags ses.tags))) hs hr
      (Request.isAmend_of_operation hs.2.1 hop)
  · rw [State.handOver_record, ← hlife]
  · rw [← State.handOver_records s l p]

/-- EXCHANGE stores the exchanged word and reports the match (R102). -/
theorem amendExchange_amendsTo (hs : s.serves .amend l p r) (hr : s.resolves p r.handle ses st) (hop : r.operation = 4) :
    commandOf r = .amendExchange
    ∧ AmendsTo s l p r ses st (exchangeTags ses.tags r.mask r.comparand r.value)
        (decide (exchangeTags ses.tags r.mask r.comparand r.value = 0#16))
        (decide (ses.tags &&& r.mask = r.comparand &&& r.mask)) := by
  have hc : commandOf r = .amendExchange := by simp [commandOf, hs.2.1, hop]
  refine ⟨hc, .of_amendTags ?_⟩
  rw [hc]
  exact State.serve_resolved (act := fun r u ses st => u.amendTags r ses st
    (exchangeTags ses.tags r.mask r.comparand r.value) (decide (ses.tags &&& r.mask = r.comparand &&& r.mask))) hs hr
    (Request.isAmend_of_operation hs.2.1 hop)

end

/-- Settles O23, by the operation the Amend carries. -/
theorem amendsChangeTheTagsAlone : Obligations.AmendsChangeTheTagsAlone := by
  intro s l p r ses st hs hr
  have other {m n : Nat} {P : Prop} (hop : r.operation = m) (hne : m ≠ n) (h : r.byteAt 3 = n) : P :=
    absurd (hop.symm.trans h) hne
  rcases Request.operation_cases hs.2.1 hs.2.2.2 with hop | hop | hop | hop
  · obtain ⟨hc, w, hexec, hrec, hkept, hframe⟩ := amendSet_amendsTo hs hr hop
    exact ⟨w, _, _, _, hexec, hrec, hkept, hframe, fun _ => ⟨hc, rfl, rfl, fun k => BitVec.getLsbD_or⟩,
      other hop (by decide), other hop (by decide), other hop (by decide)⟩
  · obtain ⟨hc, w, hexec, hrec, hkept, hframe⟩ := amendClear_amendsTo hs hr hop
    exact ⟨w, _, _, _, hexec, hrec, hkept, hframe, other hop (by decide),
      fun _ => ⟨hc, rfl, rfl, getLsbD_and_not _ _⟩, other hop (by decide), other hop (by decide)⟩
  · obtain ⟨hc, w, hexec, hrec, hkept, hframe⟩ := amendTest_amendsTo hs hr hop
    exact ⟨w, _, _, _, hexec, hrec, hkept, hframe, other hop (by decide), other hop (by decide),
      fun _ => ⟨hc, rfl, rfl, decide_eq_true_iff.trans (masked_eq_zero_iff _ _)⟩, other hop (by decide)⟩
  · obtain ⟨hc, w, hexec, hrec, hkept, hframe⟩ := amendExchange_amendsTo hs hr hop
    exact ⟨w, _, _, _, hexec, hrec, hkept, hframe, other hop (by decide), other hop (by decide), other hop (by decide),
      fun _ => ⟨hc, rfl, decide_eq_true_iff.trans (masked_eq_iff _ _ _), exchangeTags_getLsbD _ _ _ _⟩⟩

/-! ### Resize -/

/-- A Resize of a SETUP or ACTIVE record goes to the demand its field stands for (R103). -/
theorem State.resizeRecord_admitted {s : State} {r : Request} {ses : Session} {st : Stage} (h : st.isAdmitted = true) :
    s.resizeRecord r ses st = s.resizeTo r.handle.index ses st (clampDemand r.resizeDemand) := by
  cases st with
  | setup _ _ => rfl
  | active _ => rfl
  | queued _ _ _ => cases h
  | held _ _ _ _ => cases h
  | ceding _ _ _ => cases h

/-- Resize of a resolved SETUP or ACTIVE record, with CLAMPED for a demand field of 0 (R103). -/
theorem State.exec_resize {s t : State} {l : Lane} {p : PortIx} {r : Request} {ses : Session} {st : Stage} {a : Reply}
    (hs : s.serves .resize l p r) (hr : s.resolves p r.handle ses st) (hst : st.isAdmitted = true)
    (h : (s.handOver l p).resizeTo r.handle.index ses st (max 1 (r.halfAt 3).toNat) = (t, a)) :
    exec .resizeRequest s = .next (t.answer p r (a.clampedWhen (decide ((r.halfAt 3).toNat = 0)))) := by
  have hrule : (s.handOver l p).withRecord p r ((s.handOver l p).resizeRecord r) = (t, a) := by
    rw [State.withRecord_resolved (State.handOver_resolves hr), State.resizeRecord_admitted hst]
    exact h
  have hserved := State.serve_served (wanted := fun r => decide (r.kind = .resize)) (act := fun p r u =>
    ((u.withRecord p r (u.resizeRecord r)).1,
      (u.withRecord p r (u.resizeRecord r)).2.clampedWhen (decide (r.resizeDemand = 0)))) hs (decide_eq_true hs.2.1)
  rw [hrule] at hserved
  exact hserved

/-! The four outcomes of a Resize to a demand d. -/

theorem State.resizeTo_same {s : State} {i : Nat} {ses : Session} {st : Stage} {d : Nat} (hd : d = ses.demand) :
    s.resizeTo i ses st d = (s, reply .ok (.demand d)) := if_pos hd

theorem State.resizeTo_noRoom {s : State} {i : Nat} {ses : Session} {st : Stage} {d : Nat} (hd : ses.demand < d)
    (hroom : ¬ d - ses.demand ≤ (s.cell ses.key.cell).headroom ses.emergency) :
    s.resizeTo i ses st d = (s, reply .noRoom (.demand ses.demand)) := by
  unfold State.resizeTo
  rw [if_neg hd.ne', if_neg fun h => h.elim hd.not_gt hroom]

theorem State.resizeTo_increase {s : State} {i : Nat} {ses : Session} {st : Stage} {d : Nat} (hd : ses.demand < d)
    (hroom : d - ses.demand ≤ (s.cell ses.key.cell).headroom ses.emergency) :
    s.resizeTo i ses st d = (((s.setLive i { ses with demand := d } st).addA ses.key.cell (d - ses.demand)).recompute
      ses.key.cell, reply .ok (.demand d)) := by
  unfold State.resizeTo State.changeDemand
  rw [if_neg hd.ne', if_pos (.inr hroom), if_neg hd.not_gt]

theorem State.resizeTo_decrease {s : State} {i : Nat} {ses : Session} {st : Stage} {d : Nat} (hd : d < ses.demand) :
    s.resizeTo i ses st d = ((((s.setLive i { ses with demand := d } st).subA ses.key.cell (ses.demand - d)).recompute
      ses.key.cell).servicePass ses.key.cell, reply .ok (.demand d)) := by
  unfold State.resizeTo State.changeDemand
  rw [if_neg hd.ne, if_pos (.inl hd), if_pos hd]

/-- An increase is within the headroom exactly when the use with it is within the limit (R44, R105). -/
theorem Cell.increase_fits_iff (k : Cell) (e : Bool) {a b : Nat} (h : a < b) :
    b - a ≤ k.headroom e ↔ k.use + (b - a) ≤ k.limitOf e := by
  have hlimit : k.limit e = k.limitOf e := rfl
  rw [Cell.headroom, hlimit]
  omega

/-- A live record given a session, and its cell's counts changed with the recompute that follows: the record, the cell, and
all that stays as it was (R104, R105). -/
theorem State.setLive_modCell_effect (s : State) (i : Nat) (ses : Session) (st : Stage) (c : CellIx) (f : Cell → Cell)
    (hset : ∀ k, (f k).settings = k.settings) (hpl : ∀ k, (f k).pendingLevel = k.pendingLevel)
    (hlev : ∀ k, (f k).level = k.level) :
    (((s.setLive i ses st).modCell c f).recompute c).record i = { s.record i with life := .live ses st }
    ∧ RecordsKept s (((s.setLive i ses st).modCell c f).recompute c) [i]
    ∧ StoreListsKept s (((s.setLive i ses st).modCell c f).recompute c)
    ∧ Recounted s (((s.setLive i ses st).modCell c f).recompute c) c (f (s.cell c)) := by
  refine ⟨?_, fun j hj => ?_, ⟨State.recompute_freeList .., State.recompute_directory ..⟩, ?_⟩
  · rw [State.recompute_record, State.modCell_record, State.record_setLive, if_pos rfl]
  · rw [State.recompute_record, State.modCell_record, State.recordsKept_setLive _ _ _ _ j hj]
  · refine State.recounted_of_change ((still_setLive s i ses st).trans (still_modCell _ c f hset)) (fun _ => rfl) (fun e => ?_)
      (fun d hd => State.cell_modCell_ne _ _ _ _ hd) (State.cell_modCell_self ..) (hlev _)
    rw [State.isPending_modCell _ c f hpl e]
    refine State.isPending_congr (s := s) (t := s.setLive i ses st) (fun j => ?_) (fun _ => rfl) e
    rw [State.record_setLive]
    by_cases h : j = i <;> simp [h]

/-- What holds of the store and the cell after the hand-over and a change holds of the change from the state before it, the
hand-over leaving both alone. -/
theorem State.changed_since_handOver {s w : State} {l : Lane} {p : PortIx} {i : Nat} {life : Life} {c : CellIx} {f : Cell → Cell}
    (h : w.record i = { (s.handOver l p).record i with life := life } ∧ RecordsKept (s.handOver l p) w [i]
      ∧ StoreListsKept (s.handOver l p) w ∧ Recounted (s.handOver l p) w c (f ((s.handOver l p).cell c))) :
    w.record i = { s.record i with life := life } ∧ RecordsKept s w [i] ∧ StoreListsKept s w
      ∧ Recounted (s.handOver l p) w c (f (s.cell c)) := by
  simpa only [RecordsKept, StoreListsKept, State.handOver_record, State.handOver_freeList, State.handOver_directory,
    State.handOver_cell] using h

/-- Settles O27, by the cases of R104 and R105: the demand held, an increase beyond the headroom, one within it, a decrease. -/
theorem resizeChangesTheDemand : Obligations.ResizeChangesTheDemand := by
  intro s h l p r ses st d k z hs hr hst hh hd hk hz
  subst hh hk hz
  have hexec {t : State} {a : Reply} (hto : (s.handOver l p).resizeTo r.handle.index ses st d = (t, a)) :=
    State.exec_resize hs hr hst (hd ▸ hto)
  have hfits (hlt : ses.demand < d) := ((s.handOver l p).cell ses.key.cell).increase_fits_iff ses.emergency hlt
  rw [State.handOver_cell] at hfits
  refine ⟨fun heq => ?_, fun hlt hover => ?_, fun hlt hroom => ?_, fun hlt => ?_⟩
  · exact hexec (State.resizeTo_same heq)
  · exact hexec (State.resizeTo_noRoom hlt fun hle => by
      rw [State.handOver_cell, hfits hlt] at hle
      exact hover.not_ge hle)
  · refine ⟨_, hexec (State.resizeTo_increase hlt (by rw [State.handOver_cell]; exact (hfits hlt).2 hroom)), ?_⟩
    exact State.changed_since_handOver (f := fun k => { k with countA := k.countA + (d - ses.demand) })
      (State.setLive_modCell_effect _ _ _ _ _ _ (fun _ => rfl) (fun _ => rfl) fun _ => rfl)
  · refine ⟨_, hexec (State.resizeTo_decrease hlt), ?_⟩
    exact State.changed_since_handOver (f := fun k => { k with countA := k.countA - (ses.demand - d) })
      (State.setLive_modCell_effect _ _ _ _ _ _ (fun _ => rfl) (fun _ => rfl) fun _ => rfl)

end Sys2Proof.Machine
end

section
/-! Proof of the statement about Fetch (9.5): the room it makes in the ring, the moves from the backlog, the answer. -/

namespace Sys2Proof.Machine

/-! ### The moves of a Fetch -/

/-- With a backlog in use only behind a full ring, as many backlog heads move as notices were taken, or all there are (R158). -/
theorem Port.ringBounded.refill_count {q : Port} (h : q.ringBounded) (k : Nat) :
    min (q.ringSize - (q.ring.drop k).length) q.backlog.length = min (min k q.ring.length) q.backlog.length := by
  obtain ⟨hle, hfull⟩ := h
  by_cases hb : q.backlog = []
  · simp [hb]
  · have hlen := hfull hb
    rw [List.length_drop]
    omega

/-- A Fetch at a port whose ring is bounded and whose backlog entries are distinct and pending (R156, R158): the notices
removed, and the state after the moves and the attention line's update. -/
theorem State.fetchNotices_effect {s : State} {p : PortIx} (k : Nat) {j m : Nat} (hring : (s.port p).ringBounded)
    (hpend : ∀ i, .record i ∈ (s.port p).backlog → (s.record i).pending ≠ none) (hnodup : (s.port p).backlog.Nodup)
    (hj : j = min k (s.port p).ring.length) (hm : m = min j (s.port p).backlog.length) :
    (s.fetchNotices p k).1 = (s.port p).ring.take j
    ∧ ∃ moved : List Notice, moved.map some = ((s.port p).backlog.take m).map s.entryNotice
      ∧ (s.fetchNotices p k).2.port p = ({ s.port p with
          ring := (s.port p).ring.drop j ++ moved, backlog := (s.port p).backlog.drop m } : Port).followRing
            s.tick (s.port p).ring.length
      ∧ BacklogLeft s (s.fetchNotices p k).2 ((s.port p).backlog.take m) ∧ PortsKept s (s.fetchNotices p k).2 [p] := by
  obtain ⟨taken, htaken⟩ : ∃ u, u = s.modPort p fun q => { q with ring := q.ring.drop k } := ⟨_, rfl⟩
  have hport : taken.port p = { s.port p with ring := (s.port p).ring.drop k } := by rw [htaken, State.port_modPort_self]
  have hbacklog : (taken.port p).backlog = (s.port p).backlog := by rw [hport]
  have hrecord (i : Nat) : taken.record i = s.record i := by rw [htaken, State.modPort_record]
  have hentry : taken.entryNotice = s.entryNotice := by rw [htaken]; rfl
  obtain ⟨moved, hmoved, hafter, hleft, hkept, -⟩ := State.refillRing_moves p (taken.port p).backlog.length taken le_rfl
    (by simpa only [hbacklog, hrecord] using hpend) (hbacklog ▸ hnodup) m
    (by rw [hport, hm, hj]; exact (hring.refill_count k).symm)
  have hstate : (s.fetchNotices p k).2
      = (taken.refillRing p (taken.port p).backlog.length).modPort p fun q => q.followRing s.tick (s.port p).ring.length := by
    rw [htaken]; rfl
  generalize taken.refillRing p (taken.port p).backlog.length = refilled at hafter hleft hkept hstate
  rw [hbacklog] at hmoved hleft
  rw [hstate]
  refine ⟨hj ▸ List.take_eq_take_min, moved, hentry ▸ hmoved, ?_, ?_, fun o ho => ?_⟩
  · rw [State.port_modPort_self, hafter, hport, hj, ← List.drop_eq_drop_min]
  · rw [htaken] at hleft
    exact hleft
  · have hne : o ≠ p := by simpa using ho
    rw [State.port_modPort_ne _ _ _ _ hne, hkept o ho, htaken, State.port_modPort_ne _ _ _ _ hne]

/-! ### The command -/

/-- The ring count and the backlog flag of a Fetch's answer, from the notices it took and those that moved (R158). -/
theorem State.fetchReply_eq {s : State} {p : PortIx} {k j m : Nat} {q : Port} {moved : List Notice}
    (htaken : (s.fetchNotices p k).1 = q.ring.take j) (hmoved : moved.length = m)
    (hport : (s.fetchNotices p k).2.port p
      = ({ q with ring := q.ring.drop j ++ moved, backlog := q.backlog.drop m } : Port).followRing s.tick q.ring.length) :
    s.fetchReply p k = ((s.fetchNotices p k).2, Reply.mk .ok false false false
      (.fetch (q.ring.take j) (q.ring.length - j + m) (decide (m < q.backlog.length)))) := by
  have hflag : (!(q.backlog.drop m).isEmpty) = decide (m < q.backlog.length) := by
    rw [Bool.eq_iff_iff]
    simp
  simp only [State.fetchReply, htaken, hport, Port.followRing_ring, Port.followRing_backlog, List.length_append,
    List.length_drop, hmoved, hflag, reply]

/-- A served Fetch is answered by its own rule in the state after the hand-over (R158). -/
theorem State.exec_fetch {s : State} {l : Lane} {p : PortIx} {r : Request} (hs : s.serves .fetch l p r) :
    exec .fetchRequest s = .next (((s.handOver l p).fetchReply p r.count).1.answer p r
      ((s.handOver l p).fetchReply p r.count).2) :=
  State.serve_served (act := fun p r u => u.fetchReply p r.count) hs (decide_eq_true hs.2.1)

/-- Handing a request over leaves the notice each backlog entry stands for. -/
theorem State.handOver_entryNotice (s : State) (l : Lane) (p : PortIx) : (s.handOver l p).entryNotice = s.entryNotice := by
  funext e
  cases e with
  | record i => simp only [State.entryNotice, State.handOver_record]
  | cell c => simp only [State.entryNotice, State.handOver_cell]

/-- Handing a request over leaves the raw event flags and the interrupt line. -/
theorem State.handOver_eventsKept (s : State) (l : Lane) (p : PortIx) : EventsKept s (s.handOver l p) := by
  cases l <;> exact ⟨rfl, rfl⟩

/-- Handing a request over leaves the tables that a backlog entry's leaving changes. -/
theorem State.handOver_backlogLeft (s t : State) (l : Lane) (p : PortIx) (es : List BacklogEntry) :
    BacklogLeft (s.handOver l p) t es ↔ BacklogLeft s t es := by
  cases l <;> exact Iff.rfl

/-- Settles O45, by the effect of the Fetch in the state after the hand-over. -/
theorem fetchReturnsTheHeadOfTheRing : Obligations.FetchReturnsTheHeadOfTheRing := by
  intro s h l p r q j m hs hh hq hring hexact hj hm
  subst hh hq
  obtain ⟨hpending, -, -, -, hnodup⟩ := hexact
  have hpend (i : Nat) (hi : .record i ∈ ((s.handOver l p).port p).backlog) : ((s.handOver l p).record i).pending ≠ none := by
    rw [State.handOver_backlog] at hi
    rw [State.handOver_record]
    exact (hpending i).2 ⟨p, hi⟩
  obtain ⟨htaken, moved, hmoved, hport, hleft, hkept⟩ := State.fetchNotices_effect r.count hring hpend
    (by rw [State.handOver_backlog]; exact hnodup p) hj hm
  have hcount : moved.length = m := by
    have hlen := congrArg List.length hmoved
    simp only [List.length_map, List.length_take] at hlen
    omega
  obtain ⟨⟨hbackground, -, -⟩, hevents⟩ := still_fetchNotices (s.handOver l p) p r.count
  obtain ⟨hraw, hline⟩ := State.handOver_eventsKept s l p
  refine ⟨((s.handOver l p).fetchNotices p r.count).2, moved, ?_, ?_, ?_, ?_, hkept, hbackground,
    hevents.1.trans hraw, hevents.2.trans hline⟩
  · rw [State.exec_fetch hs, State.fetchReply_eq htaken hcount hport]
  · rw [hmoved, State.handOver_entryNotice]
    rfl
  · rw [hport, State.handOver_tick]
  · exact (State.handOver_backlogLeft ..).1 hleft

end Sys2Proof.Machine
end

section
/-! Proof of the statement about the interrupt line (R180): every command keeps it asserted exactly while an event has both
its raw flag and its enable set. Most operations are still; the line moves only with a raised event, a write of the event
fields and the resets. -/

namespace Sys2Proof.Machine

/-! ### What leaves the events alone, and what sets them -/

/-- A change of other fields keeps the line right. -/
theorem State.interruptFollows.congr {s t : State} (h : s.interruptFollows) (hraw : t.eventRaw = s.eventRaw)
    (henable : t.eventEnable = s.eventEnable) (hline : t.interruptLine = s.interruptLine) : t.interruptFollows := by
  unfold State.interruptFollows
  rw [hraw, henable, hline]
  exact h

theorem State.interruptFollows.still {s t : State} (h : s.interruptFollows) (hst : Still s t) : t.interruptFollows := by
  obtain ⟨hquiet, hraw, hline⟩ := hst
  exact h.congr hraw hquiet.eventEnable hline

theorem State.interruptFollows.modCell {s : State} (h : s.interruptFollows) (c : CellIx) (f : Cell → Cell) :
    (s.modCell c f).interruptFollows := h.congr rfl rfl rfl

theorem State.interruptFollows.modPort {s : State} (h : s.interruptFollows) (p : PortIx) (f : Port → Port) :
    (s.modPort p f).interruptFollows := h.congr rfl rfl rfl

theorem State.interruptFollows.chooseJob {s : State} (h : s.interruptFollows) : s.chooseJob.interruptFollows :=
  h.congr rfl rfl rfl

theorem State.interruptFollows.advance {s : State} (h : s.interruptFollows) : s.advance.interruptFollows :=
  h.congr rfl rfl rfl

theorem State.interruptFollows.answer {s : State} (h : s.interruptFollows) (p : PortIx) (r : Request) (a : Reply) :
    (s.answer p r a).interruptFollows := h.modPort ..

theorem State.interruptFollows.handOver {s : State} (h : s.interruptFollows) (l : Lane) (p : PortIx) :
    (s.handOver l p).interruptFollows := by
  obtain ⟨hraw, hline⟩ := State.handOver_eventsKept s l p
  exact h.congr hraw (by cases l <;> rfl) hline

/-- Whatever the line was before, it is right once the flags are set (R180). -/
theorem State.setEvents_interruptFollows (s : State) (raw enable : BitVec 10) : (s.setEvents raw enable).interruptFollows :=
  rfl

theorem State.raiseEvent_interruptFollows (s : State) (flag : BitVec 10) : (s.raiseEvent flag).interruptFollows :=
  State.setEvents_interruptFollows ..

theorem State.reset_interruptFollows : State.reset.interruptFollows := by
  simp [State.interruptFollows, State.reset]

/-! ### The outcome of a command -/

/-- The state an outcome answers, if it answers one, has its interrupt line right (R180). -/
def NextFollows (o : Host.Outcome State Fault Refusal) : Prop :=
  ∀ t, o = .next t → t.interruptFollows

theorem State.interruptFollows.next {s : State} (h : s.interruptFollows) : NextFollows (.next s) := by
  rintro _ ⟨⟩
  exact h

/-! ### Admit: the one request that may raise an event -/

/-- Taking a record may raise RESERVE (R10). -/
theorem State.interruptFollows.takeRecord {s : State} (h : s.interruptFollows) (ses : Session) (st : Stage) :
    (s.takeRecord ses st).interruptFollows := by
  unfold State.takeRecord
  split
  · exact h
  · dsimp only
    split
    · exact State.raiseEvent_interruptFollows ..
    · exact h.congr rfl rfl rfl

theorem State.interruptFollows.admitPlain {s : State} (h : s.interruptFollows) (ses : Session) :
    (s.admitPlain ses).interruptFollows :=
  (h.takeRecord ..).still ((still_countSetup ..).trans (still_recompute ..))

theorem State.interruptFollows.admitHeld {s : State} (h : s.interruptFollows) (ses : Session) (vs : List Nat) :
    (s.admitHeld ses vs).interruptFollows :=
  ((h.still (still_takeVictims ..)).takeRecord ..).still ((still_addR ..).trans (still_recompute ..))

theorem State.interruptFollows.enqueue {s : State} (h : s.interruptFollows) (ses : Session) :
    (s.enqueue ses).interruptFollows :=
  (h.takeRecord ..).modCell ..

theorem State.interruptFollows.queueRoute {s : State} (h : s.interruptFollows) (r : Request) (ses : Session) :
    (s.queueRoute r ses).1.interruptFollows := by
  unfold State.queueRoute
  dsimp only
  split
  · exact h
  · split
    · split
      · split
        · exact ((h.still (still_displace ..)).enqueue ses).still (still_serviceWhen ..)
        · exact h
      · exact h
    · exact h.enqueue ses

theorem State.interruptFollows.routeNewcomer {s : State} (h : s.interruptFollows) (r : Request) (ses : Session) :
    (s.routeNewcomer r ses).1.interruptFollows := by
  unfold State.routeNewcomer
  dsimp only
  split
  · split
    · exact h.admitPlain ses
    · split
      · split
        · exact h.admitHeld ses _
        · exact h.queueRoute r ses
      · exact h.queueRoute r ses
  · exact h.queueRoute r ses

theorem State.interruptFollows.admitChecked {s : State} (h : s.interruptFollows) (p : PortIx) (r : Request) :
    (s.admitChecked p r).1.interruptFollows := by
  unfold State.admitChecked
  dsimp only
  split
  · exact h
  · exact h.routeNewcomer ..

/-! ### The other requests are still -/

theorem still_withRecord {s : State} {p : PortIx} {r : Request} {act : Session → Stage → State × Reply}
    (hact : ∀ ses st, Still s (act ses st).1) : Still s (s.withRecord p r act).1 := by
  unfold State.withRecord
  split
  · split
    · split
      · exact hact ..
      · exact Still.refl s
    · exact Still.refl s
  · exact Still.refl s

theorem still_confirmRecord (s : State) (r : Request) (ses : Session) (st : Stage) :
    Still s (s.confirmRecord r ses st).1 := by
  cases st with
  | setup => exact still_setLive ..
  | queued | held | active | ceding => exact Still.refl s

theorem still_releaseRecord (s : State) (r : Request) (ses : Session) (st : Stage) :
    Still s (s.releaseRecord r ses st).1 :=
  ((still_giveUp ..).trans (still_retire ..)).trans (still_serviceWhen ..)

theorem still_resizeTo (s : State) (i : Nat) (ses : Session) (st : Stage) (d : Nat) : Still s (s.resizeTo i ses st d).1 := by
  unfold State.resizeTo
  split
  · exact Still.refl s
  · split
    · exact still_changeDemand ..
    · exact Still.refl s

theorem still_resizeRecord (s : State) (r : Request) (ses : Session) (st : Stage) :
    Still s (s.resizeRecord r ses st).1 := by
  cases st with
  | setup | active => exact still_resizeTo ..
  | queued | held | ceding => exact Still.refl s

theorem still_moveTo (s : State) (r : Request) (ses : Session) (st : Stage) : Still s (s.moveTo r ses st).1 := by
  unfold State.moveTo
  split
  · exact Still.refl s
  · dsimp only
    exact still_carryRecord ..

theorem still_moveRecord (s : State) (r : Request) (ses : Session) (st : Stage) : Still s (s.moveRecord r ses st).1 := by
  cases st with
  | setup | active => exact still_moveTo ..
  | queued | held | ceding => exact Still.refl s

/-! ### Request commands -/

theorem State.interruptFollows.engine {s : State} (h : s.interruptFollows) {p : PortIx} {r : Request} {bad : Bool}
    {act : State → State × Reply} (hact : (act s).1.interruptFollows) : (s.engine p r bad act).interruptFollows := by
  unfold State.engine
  split
  · split
    · exact h.answer ..
    · exact hact.answer ..
  · exact h.answer ..

theorem State.interruptFollows.serve {s : State} (h : s.interruptFollows) {wanted : Request → Bool}
    {carry : PortIx → Lane → Request → State → State}
    (hcarry : ∀ p l r (u : State), u.interruptFollows → (carry p l r u).interruptFollows) :
    NextFollows (s.serve wanted carry) := by
  unfold State.serve
  split
  · split
    · exact (hcarry _ _ _ _ (h.handOver ..)).next
    · exact h.next
  · exact h.next

/-- A request command whose rule is still keeps the line right, whichever answer comes before the rule. -/
theorem State.interruptFollows.serve_still {s : State} (h : s.interruptFollows) {wanted : Request → Bool}
    {act : PortIx → Request → State → State × Reply} (hact : ∀ p r u, Still u (act p r u).1) :
    NextFollows (s.serve wanted fun p _ r t => t.engine p r r.malformed (act p r)) :=
  h.serve fun _ _ _ _ hu => hu.engine (hu.still (hact ..))

/-- The same for a rule on the record that a handle names. -/
theorem State.interruptFollows.serve_record {s : State} (h : s.interruptFollows) {wanted : Request → Bool}
    {act : Request → State → Session → Stage → State × Reply} (hact : ∀ r u ses st, Still u (act r u ses st).1) :
    NextFollows (s.serve wanted fun p _ r t => t.engine p r r.malformed fun u => u.withRecord p r (act r u)) :=
  h.serve_still (act := fun p r u => u.withRecord p r (act r u)) fun _ _ _ => still_withRecord fun _ _ => hact ..

/-! ### Frames and the entry to DRAINING -/

theorem State.interruptFollows.placeRequest {s : State} (h : s.interruptFollows) (p : PortIx) (r : Request) :
    (s.placeRequest p r).interruptFollows := by
  unfold State.placeRequest
  split
  · exact h.modPort ..
  · exact h.answer ..

theorem State.interruptFollows.acceptFrame {s : State} (h : s.interruptFollows) (p : PortIx) (r : Request) :
    (s.acceptFrame p r).interruptFollows := by
  unfold State.acceptFrame
  split
  · exact h.answer ..
  · exact (h.modPort ..).placeRequest p r

theorem State.interruptFollows.execFrameArrival {s : State} (h : s.interruptFollows) (p : PortIx) (bytes : List Byte) :
    NextFollows (execFrameArrival p bytes s) := by
  unfold Machine.execFrameArrival
  split
  · exact h.next
  · exact State.interruptFollows.next (State.raiseEvent_interruptFollows ..)
  · exact (h.acceptFrame ..).next

theorem State.interruptFollows.execResponseSent {s : State} (h : s.interruptFollows) (p : PortIx) :
    NextFollows (execResponseSent p s) := by
  unfold Machine.execResponseSent
  split
  · exact h.next
  · exact State.interruptFollows.next (h.congr rfl rfl rfl)

theorem State.interruptFollows.enterDraining {s : State} (h : s.interruptFollows) (p : PortIx) :
    (s.enterDraining p).interruptFollows :=
  (((h.modPort ..).still (still_clearNotices ..)).modPort ..).chooseJob

/-! ### Deadlines -/

theorem still_atSetupGuard (s : State) (i : Nat) : Still s (s.atSetupGuard i) := by
  unfold State.atSetupGuard
  split
  · split
    · exact ((((still_subA ..).trans (still_recompute ..)).trans (still_raiseSession ..)).trans (still_retire ..)).trans
        (still_servicePass ..)
    · exact Still.refl s
  · exact Still.refl s

theorem still_atGrace (s : State) (i : Nat) : Still s (s.atGrace i) := by
  unfold State.atGrace
  split
  · split
    · exact (((still_raiseSession ..).trans (still_victimExit ..)).trans (still_retire ..)).trans (still_serviceWhen ..)
    · exact Still.refl s
  · exact Still.refl s

theorem still_atWait (s : State) (i : Nat) : Still s (s.atWait i) := by
  unfold State.atWait
  split
  · split
    · exact ((still_raiseSession ..).trans (still_retire ..)).trans (still_serviceWhen ..)
    · exact Still.refl s
  · exact Still.refl s

/-- A supervision expiry raises PORT_DOWN (R124). -/
theorem State.expirePort_interruptFollows (s : State) (p : PortIx) : (s.expirePort p).interruptFollows :=
  State.raiseEvent_interruptFollows ..

theorem State.interruptFollows.atSupervision {s : State} (h : s.interruptFollows) (p : PortIx) :
    (s.atSupervision p).interruptFollows := by
  unfold State.atSupervision
  split
  · exact s.expirePort_interruptFollows p
  · exact h

theorem State.interruptFollows.atPulseEnd {s : State} (h : s.interruptFollows) (p : PortIx) :
    (s.atPulseEnd p).interruptFollows := by
  unfold State.atPulseEnd
  split
  · exact h.modPort ..
  · exact h

theorem State.interruptFollows.take {s : State} (h : s.interruptFollows) (e : Expiry) : (s.take e).interruptFollows := by
  cases e with
  | setupGuard i => exact h.still (still_atSetupGuard s i)
  | grace i => exact h.still (still_atGrace s i)
  | wait i => exact h.still (still_atWait s i)
  | supervision p => exact h.atSupervision p
  | pulse p => exact h.atPulseEnd p

/-! ### The Drain Engine -/

theorem still_drainRecord (s : State) (notify : Bool) (i : Nat) : Still s (s.drainRecord notify i) := by
  unfold State.drainRecord
  split
  · cases notify with
    | true => exact ((still_raiseSession ..).trans (still_giveUp ..)).trans (still_retire ..)
    | false => exact (still_giveUp ..).trans (still_retire ..)
  · exact Still.refl s

/-- The end of a job raises DRAIN_DONE (R140). -/
theorem State.endJob_interruptFollows (s : State) : s.endJob.interruptFollows :=
  State.raiseEvent_interruptFollows ..

theorem State.interruptFollows.settleCellDrain {s : State} (h : s.interruptFollows) (c : CellIx) :
    (s.settleCellDrain c).interruptFollows := by
  unfold State.settleCellDrain
  split
  · exact State.endJob_interruptFollows _
  · exact h

theorem State.interruptFollows.settlePortDrain {s : State} (h : s.interruptFollows) (p : PortIx) :
    (s.settlePortDrain p).interruptFollows := by
  unfold State.settlePortDrain
  split
  · exact State.endJob_interruptFollows _
  · exact h

theorem State.interruptFollows.execCellDrainStep {s : State} (h : s.interruptFollows) : NextFollows (execCellDrainStep s) := by
  unfold Machine.execCellDrainStep
  split
  · split
    · exact ((h.still (still_drainRecord ..)).settleCellDrain _).next
    · exact (h.settleCellDrain _).next
  · exact h.next

theorem State.interruptFollows.execPortDrainStep {s : State} (h : s.interruptFollows) : NextFollows (execPortDrainStep s) := by
  unfold Machine.execPortDrainStep
  split
  · split
    · exact ((h.still (still_drainRecord ..)).settlePortDrain _).next
    · exact (h.settlePortDrain _).next
  · exact h.next

theorem State.interruptFollows.startJob {s : State} (h : s.interruptFollows) (j : Job) : (s.startJob j).interruptFollows := by
  cases j with
  | portDrain p =>
    refine State.interruptFollows.settlePortDrain ?_ p
    exact h.congr rfl rfl rfl
  | cellDrain c =>
    refine State.interruptFollows.settleCellDrain ?_ c
    exact h.congr rfl rfl rfl

theorem State.interruptFollows.startDrain {s : State} (h : s.interruptFollows) : s.startDrain.interruptFollows := by
  unfold State.startDrain
  split
  · exact h.startJob _
  · exact h

theorem State.interruptFollows.startDrains {s : State} (h : s.interruptFollows) (n : Nat) :
    (s.startDrains n).interruptFollows := by
  induction n generalizing s with
  | zero => exact h
  | succ n ih => exact ih h.startDrain

/-- TICK takes what is due and starts what is chosen, each of which keeps the line right (R113). -/
theorem State.interruptFollows.execTick {s : State} (h : s.interruptFollows) : NextFollows (execTick s) := by
  have htaken : ((openOrder s.freeDraws s.due).foldl State.take s).interruptFollows :=
    List.foldlRecOn _ _ h fun _ hu e _ => hu.take e
  exact State.interruptFollows.next ((htaken.startDrains 20).congr rfl rfl rfl)

/-! ### Accesses and table commands -/

theorem State.interruptFollows.execHighByteRead {s : State} (h : s.interruptFollows) : NextFollows (execHighByteRead s) := by
  unfold Machine.execHighByteRead
  split
  · split
    · exact State.interruptFollows.next (h.congr rfl rfl rfl)
    · exact h.next
  · exact h.next

theorem State.interruptFollows.storeByte {s : State} (h : s.interruptFollows) (f : Field) (b : Byte) :
    (s.storeByte f b).interruptFollows := by
  unfold State.storeByte
  split <;> exact h.congr rfl rfl rfl

theorem State.interruptFollows.storeHalf {s : State} (h : s.interruptFollows) (f : Field) (b : Byte) :
    (s.storeHalf f b).interruptFollows := by
  unfold State.storeHalf
  split <;> exact h.congr rfl rfl rfl

theorem State.interruptFollows.storePart {s : State} (h : s.interruptFollows) (f : Field) (part : Part) (b : Byte) :
    (s.storePart f part b).interruptFollows := by
  cases part with
  | whole => exact h.storeByte f b
  | low => exact h.storeHalf f b
  | high =>
    unfold State.storePart
    dsimp only
    split
    · exact h.congr rfl rfl rfl
    · exact h

/-- REGISTER_WRITE never reaches the event fields: a high byte waits in the holding byte, a low byte has a row of its own. -/
theorem State.interruptFollows.execRegisterWrite {s : State} (h : s.interruptFollows) (b : Byte) :
    NextFollows (execRegisterWrite b s) := by
  unfold Machine.execRegisterWrite
  split
  · split
    · split
      · exact h.next
      · exact (h.storePart ..).advance.next
    · exact h.advance.next
  · exact h.next

theorem State.interruptFollows.execOpenTable {s : State} (h : s.interruptFollows) : NextFollows (execOpenTable s) := by
  unfold Machine.execOpenTable
  split
  · exact State.interruptFollows.next (h.congr rfl rfl rfl)
  · exact h.next

/-- A Table Reset raises no event and leaves the flags (R178). -/
theorem State.interruptFollows.execTableReset {s : State} (h : s.interruptFollows) : NextFollows (execTableReset s) := by
  unfold Machine.execTableReset
  split
  · exact State.interruptFollows.next (h.congr rfl rfl rfl)
  · exact h.next

/-! ### Cell commands -/

theorem State.interruptFollows.commandDone {s : State} (h : s.interruptFollows) (c : CellIx) (st : CellState) :
    (s.commandDone c st).interruptFollows := h.modCell ..

theorem State.interruptFollows.commandRefused {s : State} (h : s.interruptFollows) (c : CellIx) :
    (s.commandRefused c).interruptFollows := h.modCell ..

theorem State.interruptFollows.openCommand {s : State} (h : s.interruptFollows) (c : CellIx) :
    (s.openCommand c).interruptFollows := by
  unfold State.openCommand
  split
  · exact (h.commandDone ..).still (still_recompute ..)
  · exact h.commandRefused c

theorem State.interruptFollows.barCommand {s : State} (h : s.interruptFollows) (c : CellIx) :
    (s.barCommand c).interruptFollows := by
  unfold State.barCommand
  split
  · exact h.commandDone ..
  · exact h.commandRefused c

theorem State.interruptFollows.unbarCommand {s : State} (h : s.interruptFollows) (c : CellIx) :
    (s.unbarCommand c).interruptFollows := by
  unfold State.unbarCommand
  split
  · exact (h.commandDone ..).still (still_servicePass ..)
  · exact h.commandRefused c

theorem State.interruptFollows.drainCommand {s : State} (h : s.interruptFollows) (c : CellIx) :
    (s.drainCommand c).interruptFollows := by
  unfold State.drainCommand
  split
  · exact ((h.commandDone ..).modCell ..).chooseJob
  · exact h.commandRefused c

/-- A Stop Drain raises DRAIN_DONE (R145). -/
theorem State.interruptFollows.stopDrainCommand {s : State} (h : s.interruptFollows) (c : CellIx) :
    (s.stopDrainCommand c).interruptFollows := by
  unfold State.stopDrainCommand
  split
  · exact State.raiseEvent_interruptFollows ..
  · exact h.commandRefused c

theorem State.interruptFollows.execOpenCell {s : State} (h : s.interruptFollows) : NextFollows (execOpenCell s) := by
  unfold Machine.execOpenCell
  split
  · exact (h.openCommand _).advance.next
  · exact h.next

theorem State.interruptFollows.execBarCell {s : State} (h : s.interruptFollows) : NextFollows (execBarCell s) := by
  unfold Machine.execBarCell
  split
  · exact (h.barCommand _).advance.next
  · exact h.next

theorem State.interruptFollows.execUnbarCell {s : State} (h : s.interruptFollows) : NextFollows (execUnbarCell s) := by
  unfold Machine.execUnbarCell
  split
  · exact (h.unbarCommand _).advance.next
  · exact h.next

theorem State.interruptFollows.execDrainCell {s : State} (h : s.interruptFollows) : NextFollows (execDrainCell s) := by
  unfold Machine.execDrainCell
  split
  · exact (h.drainCommand _).advance.next
  · exact h.next

theorem State.interruptFollows.execStopDrain {s : State} (h : s.interruptFollows) : NextFollows (execStopDrain s) := by
  unfold Machine.execStopDrain
  split
  · exact (h.stopDrainCommand _).advance.next
  · exact h.next

/-! ### Writes of cell fields -/

theorem State.interruptFollows.writeCapacity {s : State} (h : s.interruptFollows) (c : CellIx) (v : Nat) :
    (s.writeCapacity c v).interruptFollows := by
  unfold State.writeCapacity
  dsimp only
  split
  · exact h
  · exact (h.modCell ..).still ((still_recompute ..).trans (still_serviceWhen ..))

/-- A write of t1, t2 or t3: nothing for the value it holds, otherwise the new value and a recompute (R133). -/
theorem State.interruptFollows.writeThreshold {s : State} (h : s.interruptFollows) (c : CellIx) (f : Cell → Cell)
    (same : Prop) [Decidable same] : (if same then s else (s.modCell c f).recompute c).interruptFollows := by
  split
  · exact h
  · exact (h.modCell ..).still (still_recompute ..)

theorem State.interruptFollows.writeOwner {s : State} (h : s.interruptFollows) (c : CellIx) (v : Nat) :
    (s.writeOwner c v).interruptFollows := by
  unfold State.writeOwner
  split
  · exact h.modCell ..
  · exact h

theorem State.interruptFollows.execCapacityWrite {s : State} (h : s.interruptFollows) (b : Byte) :
    NextFollows (execCapacityWrite b s) := by
  unfold Machine.execCapacityWrite
  split
  · exact (h.writeCapacity ..).advance.next
  · exact h.next

theorem State.interruptFollows.execFloorWrite {s : State} (h : s.interruptFollows) (b : Byte) :
    NextFollows (execFloorWrite b s) := by
  unfold Machine.execFloorWrite
  split
  · exact ((h.modCell ..).still (still_serviceWhen ..)).advance.next
  · exact h.next

theorem State.interruptFollows.execThresholdWrite {s : State} (h : s.interruptFollows) (b : Byte) :
    NextFollows (execThresholdWrite b s) := by
  unfold Machine.execThresholdWrite
  split
  · exact State.interruptFollows.next (h.writeThreshold ..).advance
  · exact State.interruptFollows.next (h.writeThreshold ..).advance
  · exact State.interruptFollows.next (h.writeThreshold ..).advance
  · exact h.next

theorem State.interruptFollows.execOwnerPortWrite {s : State} (h : s.interruptFollows) (b : Byte) :
    NextFollows (execOwnerPortWrite b s) := by
  unfold Machine.execOwnerPortWrite
  split
  · exact (h.writeOwner ..).advance.next
  · exact h.next

theorem State.interruptFollows.execDepthLimitWrite {s : State} (h : s.interruptFollows) (b : Byte) :
    NextFollows (execDepthLimitWrite b s) := by
  unfold Machine.execDepthLimitWrite
  split
  · exact ((h.modCell ..).still ((still_cutQueue ..).trans (still_serviceWhen ..))).advance.next
  · exact h.next

/-! ### Writes of global and port settings -/

theorem State.interruptFollows.writeAgingWeight {s : State} (h : s.interruptFollows) (v : Nat) :
    (s.writeAgingWeight v).interruptFollows := by
  unfold State.writeAgingWeight
  split
  · exact h
  · exact h.congr rfl rfl rfl

theorem State.interruptFollows.expirePorts {s : State} (h : s.interruptFollows) : s.expirePorts.interruptFollows := by
  have hexpired : ((openOrder s.freeDraws s.overduePorts).foldl State.expirePort s).interruptFollows :=
    List.foldlRecOn _ _ h fun u _ p _ => u.expirePort_interruptFollows p
  exact hexpired.congr rfl rfl rfl

theorem State.interruptFollows.writeSupervision {s : State} (h : s.interruptFollows) (v : Nat) :
    (s.writeSupervision v).interruptFollows := by
  have hset : ({ s with supervision := min 5000 v } : State).interruptFollows := h.congr rfl rfl rfl
  unfold State.writeSupervision
  dsimp only
  split
  · exact h
  · split
    · exact hset
    · split
      · exact hset.congr rfl rfl rfl
      · exact hset.expirePorts

theorem State.interruptFollows.execAgingWeightWrite {s : State} (h : s.interruptFollows) (b : Byte) :
    NextFollows (execAgingWeightWrite b s) := by
  unfold Machine.execAgingWeightWrite
  split
  · exact (h.writeAgingWeight _).advance.next
  · exact h.next

theorem State.interruptFollows.execSupervisionIntervalWrite {s : State} (h : s.interruptFollows) (b : Byte) :
    NextFollows (execSupervisionIntervalWrite b s) := by
  unfold Machine.execSupervisionIntervalWrite
  split
  · exact (h.writeSupervision _).advance.next
  · exact h.next

theorem State.interruptFollows.execAttentionWrite {s : State} (h : s.interruptFollows) (b : Byte) :
    NextFollows (execAttentionWrite b s) := by
  unfold Machine.execAttentionWrite
  split
  · exact (h.modPort ..).advance.next
  · exact (h.modPort ..).advance.next
  · exact h.next

theorem State.interruptFollows.execRingSizeWrite {s : State} (h : s.interruptFollows) (b : Byte) :
    NextFollows (execRingSizeWrite b s) := by
  unfold Machine.execRingSizeWrite
  split
  · exact (h.modPort ..).advance.next
  · exact h.next

/-! ### Writes of the event fields -/

theorem State.interruptFollows.execEventRawWrite {s : State} (h : s.interruptFollows) (b : Byte) :
    NextFollows (execEventRawWrite b s) := by
  unfold Machine.execEventRawWrite
  split
  · exact (State.setEvents_interruptFollows ..).advance.next
  · exact h.next

theorem State.interruptFollows.execEventEnableWrite {s : State} (h : s.interruptFollows) (b : Byte) :
    NextFollows (execEventEnableWrite b s) := by
  unfold Machine.execEventEnableWrite
  split
  · exact (State.setEvents_interruptFollows ..).advance.next
  · exact h.next

/-! ### Every command and every step -/

/-- Every command keeps the interrupt line right (R180). -/
theorem State.interruptFollows.exec {s : State} (h : s.interruptFollows) (c : Instr) : NextFollows (exec c s) := by
  cases c with
  | pinReset => exact State.interruptFollows.next (State.reset_interruptFollows.congr rfl rfl rfl)
  | tick => exact h.execTick
  | frameArrival p bytes => exact h.execFrameArrival p bytes
  | admitRequest => exact h.serve fun p _ r _ hu => hu.engine (hu.admitChecked p r)
  | confirmRequest => exact h.serve_record (act := fun r u => u.confirmRecord r) fun r u => still_confirmRecord u r
  | releaseRequest => exact h.serve_record (act := fun r u => u.releaseRecord r) fun r u => still_releaseRecord u r
  | lookupRequest => exact h.serve_still (act := fun p r u => (u, u.lookupKey p r)) fun _ _ u => Still.refl u
  | queryRequest => exact h.serve_record fun _ u _ _ => Still.refl u
  | amendSet => exact h.serve_record fun _ _ _ _ => still_setLive ..
  | amendClear => exact h.serve_record fun _ _ _ _ => still_setLive ..
  | amendTest => exact h.serve_record fun _ u _ _ => Still.refl u
  | amendExchange => exact h.serve_record fun _ _ _ _ => still_setLive ..
  | resizeRequest =>
    exact h.serve_still fun _ r u => still_withRecord (act := u.resizeRecord r) (still_resizeRecord u r)
  | moveRequest => exact h.serve_record (act := fun r u => u.moveRecord r) fun r u => still_moveRecord u r
  | fetchRequest => exact h.serve_still (act := fun p r u => u.fetchReply p r.count) fun _ _ _ => still_fetchNotices ..
  | cellStatusRequest => exact h.serve_still fun _ _ u => Still.refl u
  | withdrawRequest => exact h.serve fun _ _ _ _ hu => (hu.answer ..).enterDraining _
  | nullRequest => exact h.serve_still fun _ _ u => Still.refl u
  | responseSent p => exact h.execResponseSent p
  | setupGuardExpiry i => exact (h.still (still_atSetupGuard s i)).next
  | graceExpiry i => exact (h.still (still_atGrace s i)).next
  | waitExpiry i => exact (h.still (still_atWait s i)).next
  | supervisionExpiry p => exact (h.atSupervision p).next
  | pulseEnd p => exact (h.atPulseEnd p).next
  | drainJobStart => exact h.startDrain.next
  | cellDrainStep => exact h.execCellDrainStep
  | portDrainStep => exact h.execPortDrainStep
  | selectAssert command address => exact State.interruptFollows.next (h.congr rfl rfl rfl)
  | openTable => exact h.execOpenTable
  | tableReset => exact h.execTableReset
  | openCell => exact h.execOpenCell
  | barCell => exact h.execBarCell
  | unbarCell => exact h.execUnbarCell
  | drainCell => exact h.execDrainCell
  | stopDrain => exact h.execStopDrain
  | capacityWrite b => exact h.execCapacityWrite b
  | floorWrite b => exact h.execFloorWrite b
  | thresholdWrite b => exact h.execThresholdWrite b
  | ownerPortWrite b => exact h.execOwnerPortWrite b
  | depthLimitWrite b => exact h.execDepthLimitWrite b
  | agingWeightWrite b => exact h.execAgingWeightWrite b
  | supervisionIntervalWrite b => exact h.execSupervisionIntervalWrite b
  | attentionWrite b => exact h.execAttentionWrite b
  | ringSizeWrite b => exact h.execRingSizeWrite b
  | eventRawWrite b => exact h.execEventRawWrite b
  | eventEnableWrite b => exact h.execEventEnableWrite b
  | highByteRead => exact h.execHighByteRead
  | registerWrite b => exact h.execRegisterWrite b
  | selectRelease => exact State.interruptFollows.next (h.congr rfl rfl rfl)

theorem State.interruptFollows.step {s : State} (h : s.interruptFollows) : NextFollows (step s) := by
  unfold Machine.step
  split
  · exact h.next
  · refine State.interruptFollows.exec ?_ _
    exact h.congr rfl rfl rfl

/-- Settles O4, by the effect of each command on the event flags. -/
theorem interruptLineFollowsEvents : Obligations.InterruptLineFollowsEvents :=
  ⟨fun _ t h hstep => h.step t hstep, State.reset_interruptFollows, rfl⟩

end Sys2Proof.Machine
end

section
/-! The induction over commands, made once: the events that the commands are made of, and the theorem that a predicate on
states which every event keeps is kept by every command and every step. -/

namespace Sys2Proof.Machine

/-! ### Outcomes and parts of commands -/

/-- The state an outcome answers, if it answers one, has a property. -/
def Yields (P : State → Prop) (o : Host.Outcome State Fault Refusal) : Prop := ∀ t, o = .next t → P t

theorem Yields.next {P : State → Prop} {s : State} (h : P s) : Yields P (.next s) := by
  rintro _ ⟨⟩
  exact h

/-- What taking a record for a newcomer relies on (R2, R8, R16, R40): a FREE record, an unused key, a demand, and no emergency
record that is vulnerable. -/
def State.takesNewcomer (s : State) (ses : Session) : Prop :=
  s.freeList ≠ [] ∧ s.findKey ses.key = none ∧ 1 ≤ ses.demand ∧ (ses.emergency = true → ses.vulnerable = false)

/-- A Move up to the queue service pass that ends it (R109). -/
def State.relocate (s : State) (i : Nat) (ses : Session) (st : Stage) (target : CellIx) : State :=
  let moved := s.movedSession ses target
  let s1 := ((s.subA ses.key.cell ses.demand).leaveRank ses.key.cell i).dropKey ses.key
  let s2 := ((s1.setLive i moved (st.restamped s.tick)).addKey moved.key (s.handleOf i)).countSetup target i moved
  (s2.recompute ses.key.cell).recompute target

theorem State.carryRecord_eq (s : State) (i : Nat) (ses : Session) (st : Stage) (target : CellIx) :
    s.carryRecord i ses st target = (s.relocate i ses st target).servicePass ses.key.cell := rfl

/-- A drain job started, before it is settled (R140). -/
def State.begun (s : State) (j : Job) : State :=
  match j with
  | .portDrain p => { s.modPort p fun q => { q with drainFlag := false } with job := some j, chosen := none }
  | .cellDrain c => { s.modCell c fun k => { k with drainFlag := false } with job := some j, chosen := none }

/-- The waiting requests of a port answered PORT_DRAINING, the first part of its entry to DRAINING (R147). -/
def State.turnAway (s : State) (p : PortIx) : State :=
  s.modPort p fun q => { q with
    urgentLane := []
    normalLane := []
    transmit := q.transmit ++ ((s.port p).urgentLane ++ (s.port p).normalLane).map fun r =>
      Response.mk r.kind r.tag .portDraining false false false .empty }

theorem State.enterDraining_eq (s : State) (p : PortIx) : s.enterDraining p
    = (((s.turnAway p).clearNotices p).modPort p fun q => { q with state := .draining, drainFlag := true }).chooseJob := rfl

/-- The state with another management transaction, data output, capture and count of free values. -/
def State.accessed (s : State) (t : Option Transaction) (out : Option Byte) (cap : Capture) (draws : Nat) : State :=
  { s with transaction := t, dataOut := out, capture := cap, freeDraws := draws }

/-! ### The events -/

/-- The events of retirement and queue service keep a predicate. Every one of them is quiet. -/
structure KeepsService (P : State → Prop) : Prop where
  raised {s : State} (i : Nat) (kind : SessionNotice) (cause : Cause) : P s → P (s.raiseSession i kind cause)
  retired {s t : State} {i : Nat} {ses : Session} {st : Stage} : P s → s.liveAt i = some (ses, st) →
    (t = s.giveUp i ses st ∨ ∃ kind cause, t = (s.giveUp i ses st).raiseSession i kind cause) → P (t.retire i)
  served {s : State} {c : CellIx} {i : Nat} {rest : List Nat} {ses : Session} {st : Stage} : P s →
    (s.cell c).queue = i :: rest → s.liveAt i = some (ses, st) → P (s.serveHead c i ses)
  heldHead {s : State} {c : CellIx} {i : Nat} {rest vs : List Nat} {ses : Session} {st : Stage} : P s →
    (s.cell c).queue = i :: rest → s.liveAt i = some (ses, st) → ¬ ses.demand ≤ (s.cell c).headroom ses.emergency →
    s.victimsFor c ses = some vs → P (s.holdHead c i ses vs)

/-- The events inside the tables keep a predicate: those of retirement and queue service, admission, the changes of a record
that requests make, and Fetch. Every one of them is quiet. -/
structure KeepsTables (P : State → Prop) : Prop extends KeepsService P where
  displaced {s : State} {c : CellIx} {i : Nat} : P s → i ∈ (s.cell c).queue → P (s.displace i)
  admitted {s : State} {ses : Session} : P s → s.takesNewcomer ses → P (s.admitPlain ses)
  preempted {s : State} {ses : Session} {vs : List Nat} : P s → s.takesNewcomer ses →
    ¬ ses.demand ≤ (s.cell ses.key.cell).headroom ses.emergency → s.victimsFor ses.key.cell ses = some vs →
    P (s.admitHeld ses vs)
  enqueued {s : State} {ses : Session} : P s → s.takesNewcomer ses → P (s.enqueue ses)
  confirmed {s : State} {i : Nat} {ses : Session} {stamp : Tick} {g : Option Tick} : P s →
    s.liveAt i = some (ses, .setup stamp g) → P (s.setLive i ses (.active stamp))
  tagged {s : State} {i : Nat} {ses : Session} {st : Stage} (tags : Half) : P s → s.liveAt i = some (ses, st) →
    P (s.setLive i { ses with tags := tags } st)
  decreased {s : State} {i d : Nat} {ses : Session} {st : Stage} : P s → s.liveAt i = some (ses, st) → st.isAdmitted = true →
    1 ≤ d → d < ses.demand →
    P (((s.setLive i { ses with demand := d } st).subA ses.key.cell (ses.demand - d)).recompute ses.key.cell)
  increased {s : State} {i d : Nat} {ses : Session} {st : Stage} : P s → s.liveAt i = some (ses, st) → st.isAdmitted = true →
    ses.demand < d →
    P (((s.setLive i { ses with demand := d } st).addA ses.key.cell (d - ses.demand)).recompute ses.key.cell)
  moved {s : State} {i : Nat} {ses : Session} {st : Stage} {target : CellIx} : P s → s.liveAt i = some (ses, st) →
    st.isAdmitted = true → s.moveRefusal ses target = none → P (s.relocate i ses st target)
  fetched {s : State} (p : PortIx) (k : Nat) : P s → P (s.fetchNotices p k).2

/-- The events that a tick takes keep a predicate: those of retirement and queue service, the expiry of a port, the end of a
pulse, and the start and the end of a drain. -/
structure KeepsTimed (P : State → Prop) : Prop extends KeepsService P where
  expired {s : State} {p : PortIx} : P s → s.watched p = true → P (s.expirePort p)
  pulseEnded {s : State} {p : PortIx} : P s → (s.port p).pulseDue s.tick = true → P (s.modPort p Port.endPulse)
  begun {s : State} {j : Job} : P s → s.job = none → s.nextJob = some j → P (s.begun j)
  cellDrained {s : State} {c : CellIx} : P s → s.job = some (.cellDrain c) → (s.liveIn c).isEmpty = true →
    P (s.completeCellDrain c)
  portDrained {s : State} {p : PortIx} : P s → s.job = some (.portDrain p) → s.portEmpty p = true → P (s.completePortDrain p)

/-- The events of every command that writes no configuration keep a predicate. -/
structure KeepsEvents (P : State → Prop) : Prop extends KeepsTables P, KeepsTimed P where
  handedOver {s : State} {l : Lane} {p : PortIx} {r : Request} : P s → s.arbiterChoice = some (l, p, r) → P (s.handOver l p)
  answered {s : State} (p : PortIx) (r : Request) (a : Reply) : P s → P (s.answer p r a)
  discarded {s : State} (p : PortIx) : P s → P (s.discardFrame p)
  arrived {s : State} (p : PortIx) (r : Request) : P s → P (s.acceptFrame p r)
  sent {s : State} {p : PortIx} {r : Response} {rest : List Response} (bytes : List Byte) (draws : Nat) : P s →
    (s.port p).transmit = r :: rest →
    P { s.modPort p fun q => { q with transmit := rest, sent := bytes } with freeDraws := draws }
  withdrawn {s : State} {l : Lane} {p : PortIx} {r : Request} : P s → s.arbiterChoice = some (l, p, r) →
    P (((s.handOver l p).answer p r (bare .ok)).enterDraining p)
  accessed {s : State} (t : Option Transaction) (out : Option Byte) (cap : Capture) (draws : Nat) : P s →
    P (s.accessed t out cap draws)
  tableOpened {s : State} : P s → P { s with tableOpen := true }
  tableReset {s : State} : P s → P s.resetTable
  opened {s : State} {c : CellIx} : P s → (s.cell c).state = .closed → P ((s.commandDone c .opened).recompute c)
  barred {s : State} {c : CellIx} : P s → (s.cell c).state = .opened → P (s.commandDone c .barred)
  unbarred {s : State} {c : CellIx} : P s → (s.cell c).state = .barred → P (s.commandDone c .opened)
  draining {s : State} {c : CellIx} : P s → (s.cell c).state = .opened ∨ (s.cell c).state = .barred →
    P ((s.commandDone c .draining).modCell c fun k => { k with drainFlag := true }).chooseJob
  stopped {s : State} {c : CellIx} : P s → (s.cell c).state = .draining →
    P ((((s.commandDone c .barred).modCell c fun k => { k with drainFlag := false }).dropJob (.cellDrain c)).raiseEvent
      drainDoneEvent)
  refused {s : State} (c : CellIx) : P s → P (s.commandRefused c)
  watchRestarted {s : State} : P s → P s.restartSupervision
  attention {s : State} (p : PortIx) (b : Byte) : P s → P (s.modPort p fun q => q.writeAttention s.tick b)
  pulseWidth {s : State} (p : PortIx) (b : Byte) : P s → P (s.modPort p fun q => q.writePulseWidth b)
  ringSize {s : State} (p : PortIx) (b : Byte) : P s → P (s.modPort p fun q => q.writeRingSize b)
  eventsSet {s : State} (raw enable : BitVec 10) : P s → P (s.setEvents raw enable)

/-- All events keep a predicate: those above, the tick's advance, pin reset and the writes of configuration. -/
structure KeepsAll (P : State → Prop) : Prop extends KeepsEvents P where
  pinReset {s : State} : P s → P { State.reset with pending := s.pending, freeDraws := s.freeDraws }
  ticked {s : State} (now : Tick) (draws : Nat) : P s → P { s with tick := now, freeDraws := draws }
  stored {s : State} (f : Field) (part : Part) (b : Byte) : P s → P (s.storePart f part b)
  capacity {s : State} {c : CellIx} {v : Nat} : P s → v < 65536 →
    P ((s.modCell c fun k => { k with capacity := v }).recompute c)
  floor {s : State} {c : CellIx} {v : Nat} : P s → v < 65536 → P (s.modCell c fun k => { k with floor := v })
  threshold1 {s : State} (c : CellIx) (v : Nat) : P s → P ((s.modCell c fun k => { k with t1 := clampThreshold v }).recompute c)
  threshold2 {s : State} (c : CellIx) (v : Nat) : P s → P ((s.modCell c fun k => { k with t2 := clampThreshold v }).recompute c)
  threshold3 {s : State} (c : CellIx) (v : Nat) : P s → P ((s.modCell c fun k => { k with t3 := clampThreshold v }).recompute c)
  owner {s : State} {c : CellIx} (p : PortIx) : P s → (s.cell c).state = .closed → (s.cell c).pendingLevel = false →
    P (s.modCell c fun k => { k with owner := p })
  depthLimit {s : State} (c : CellIx) (v : Nat) : P s → P (s.modCell c fun k => { k with depthLimit := min 64 v })
  reweighed {s : State} (v : Nat) : P s → P (s.reweigh (min 4095 v))
  supervision {s : State} (v : Nat) : P s → P { s with supervision := min 5000 v }

section
variable {P : State → Prop} {s : State}

/-- A predicate that every quiet change keeps is kept by the events inside the tables. -/
theorem KeepsTables.of_quiet (h : ∀ {s t : State}, Quiet s t → P s → P t) : KeepsTables P where
  raised i kind cause := h (still_raiseSession ..).quiet
  retired hs _ ht := by
    rcases ht with rfl | ⟨kind, cause, rfl⟩
    · exact h ((still_giveUp ..).trans (still_retire ..)).quiet hs
    · exact h (((still_giveUp ..).trans (still_raiseSession ..)).trans (still_retire ..)).quiet hs
  displaced hs _ := h (still_displace ..).quiet hs
  served hs _ _ := h (still_serveHead ..).quiet hs
  heldHead hs _ _ _ _ := h (still_holdHead ..).quiet hs
  admitted hs _ := h (quiet_admitPlain ..) hs
  preempted hs _ _ _ := h (quiet_admitHeld ..) hs
  enqueued hs _ := h (quiet_enqueue ..) hs
  confirmed hs _ := h (still_setLive ..).quiet hs
  tagged _ hs _ := h (still_setLive ..).quiet hs
  decreased hs _ _ _ _ := h (((still_setLive ..).trans (still_subA ..)).trans (still_recompute ..)).quiet hs
  increased hs _ _ _ := h (((still_setLive ..).trans (still_addA ..)).trans (still_recompute ..)).quiet hs
  moved hs _ _ _ := h ((((((((still_subA ..).trans (still_leaveRank ..)).trans (still_dropKey ..)).trans
    (still_setLive ..)).trans (still_addKey ..)).trans (still_countSetup ..)).trans (still_recompute ..)).trans
    (still_recompute ..)).quiet hs
  fetched p k := h (still_fetchNotices ..).quiet

/-! ### Queue service, displacement and drains -/

theorem KeepsService.passSteps (k : KeepsService P) (h : P s) (c : CellIx) (fuel : Nat) : P (s.passSteps c fuel) := by
  induction fuel generalizing s with
  | zero => exact h
  | succ n ih =>
    unfold State.passSteps
    split
    · exact h
    · next i rest hq =>
      split
      · next t ht =>
        refine ih ?_
        unfold State.tryHead at ht
        split at ht
        · next ses st hl =>
          split at ht
          · cases ht
          · split at ht
            · cases ht
              exact k.served h hq hl
            · next hfit =>
              split at ht
              · obtain ⟨vs, hvs, rfl⟩ := Option.map_eq_some_iff.1 ht
                exact k.heldHead h hq hl hfit hvs
              · cases ht
        · cases ht
      · exact h

theorem KeepsService.servicePass (k : KeepsService P) (h : P s) (c : CellIx) : P (s.servicePass c) := by
  unfold State.servicePass
  split
  · exact k.passSteps h ..
  · exact h

theorem KeepsService.serviceWhen (k : KeepsService P) (h : P s) (b : Bool) (c : CellIx) : P (s.serviceWhen b c) := by
  unfold State.serviceWhen
  split
  · exact k.servicePass h c
  · exact h

/-- The record a queue loses to displacement stands in it. -/
theorem State.lastOrdinary_mem {c : CellIx} {i : Nat} (h : s.lastOrdinary c = some i) : i ∈ (s.cell c).queue :=
  List.mem_reverse.1 (List.mem_of_find?_eq_some h)

theorem KeepsTables.cutQueue (k : KeepsTables P) (h : P s) (c : CellIx) (limit fuel : Nat) : P (s.cutQueue c limit fuel) := by
  induction fuel generalizing s with
  | zero => exact h
  | succ n ih =>
    unfold State.cutQueue
    split
    · exact h
    · split
      · next i hi => exact ih (k.displaced h (State.lastOrdinary_mem hi))
      · exact h

theorem KeepsService.drainRecord (k : KeepsService P) (h : P s) (notify : Bool) (i : Nat) : P (s.drainRecord notify i) := by
  unfold State.drainRecord
  split
  · next ses st hl =>
    cases notify with
    | true => exact k.retired (k.raised i _ _ h) (by rw [State.raiseSession_liveAt]; exact hl) (.inl rfl)
    | false => exact k.retired h hl (.inl rfl)
  · exact h

/-! ### Expiries of records -/

theorem KeepsService.atSetupGuard (k : KeepsService P) (h : P s) (i : Nat) : P (s.atSetupGuard i) := by
  unfold State.atSetupGuard
  split
  · next ses stamp deadline hl =>
    split
    · have hgone : P (((s.giveUp i ses (.setup stamp (some deadline))).raiseSession i .expired .setupTimeout).retire i) :=
        k.retired h hl (.inr ⟨_, _, rfl⟩)
      exact k.servicePass hgone _
    · exact h
  · exact h

theorem KeepsService.atGrace (k : KeepsService P) (h : P s) (i : Nat) : P (s.atGrace i) := by
  unfold State.atGrace
  split
  · next ses stamp b deadline hl =>
    split
    · have hgone : P (((s.raiseSession i .forcedOut .graceExpired).giveUp i ses (.ceding stamp b deadline)).retire i) :=
        k.retired (k.raised i _ _ h) (by rw [State.raiseSession_liveAt]; exact hl) (.inl rfl)
      exact k.serviceWhen hgone _ _
    · exact h
  · exact h

theorem KeepsService.atWait (k : KeepsService P) (h : P s) (i : Nat) : P (s.atWait i) := by
  unfold State.atWait
  split
  · next ses a v d hl =>
    split
    · have hgone : P (((s.raiseSession i .expired .waitTimeout).giveUp i ses (.queued a v d)).retire i) :=
        k.retired (k.raised i _ _ h) (by rw [State.raiseSession_liveAt]; exact hl) (.inl rfl)
      exact k.serviceWhen hgone _ _
    · exact h
  · exact h

/-! ### Requests -/

theorem takesNewcomer_of_admitRefusal {p : PortIx} {r : Request} (h : s.admitRefusal p r = none) :
    s.takesNewcomer (newSession (s.classAt r.cls) r) := by
  have hav : s.findKey r.key = none ∧ s.recordAvailable (s.classAt r.cls).emergency = true := by
    unfold State.admitRefusal at h
    dsimp only at h
    split at h
    · cases h
    · split at h
      · cases h
      · next hkey =>
        refine ⟨hkey, ?_⟩
        split at h
        · cases h
        · split at h
          · cases h
          · split at h
            · cases h
            · split at h
              · cases h
              · split at h
                · assumption
                · cases h
  refine ⟨fun hf => ?_, hav.1, Nat.le_max_left .., fun he => ?_⟩
  · have := hav.2
    simp [State.recordAvailable, hf] at this
  · have he' : (s.classAt r.cls).emergency = true := he
    simp [newSession, ServiceClass.vulnerableInUse, he']

/-- A displacement leaves room for the newcomer (R75). -/
theorem State.takesNewcomer.displace {ses : Session} (h : s.takesNewcomer ses) (i : Nat) : (s.displace i).takesNewcomer ses := by
  unfold State.displace
  cases hl : s.liveAt i with
  | none =>
    have hraise : s.raiseSession i .expired .displaced = s := by simp [State.raiseSession, hl]
    rw [hraise]
    simpa [State.retire, hl] using h
  | some x =>
    obtain ⟨hfree, hkey, hrest⟩ := h
    obtain ⟨⟨-, hlist, hdrop, hother⟩, -⟩ := State.retire_retiredFrom (s.raiseSession i .expired .displaced) i x.1 x.2
      (by rw [State.raiseSession_liveAt]; exact hl)
    rw [State.raiseSession_freeList] at hlist
    refine ⟨?_, ?_, hrest⟩
    · rw [hlist]
      split
      · exact hfree
      · simp
    · by_cases hk : ses.key = x.1.key
      · rw [hk]
        exact hdrop
      · rw [hother _ hk]
        simpa only [State.findKey, State.raiseSession_directory] using hkey

theorem KeepsTables.queueRoute (k : KeepsTables P) (h : P s) (r : Request) {ses : Session} (hn : s.takesNewcomer ses) :
    P (s.queueRoute r ses).1 := by
  unfold State.queueRoute
  dsimp only
  split
  · exact h
  · split
    · split
      · split
        · next i hi =>
          exact k.serviceWhen (k.enqueued (k.displaced h (State.lastOrdinary_mem hi)) (hn.displace i)) _ _
        · exact h
      · exact h
    · exact k.enqueued h hn

theorem KeepsTables.routeNewcomer (k : KeepsTables P) (h : P s) (r : Request) {ses : Session} (hn : s.takesNewcomer ses) :
    P (s.routeNewcomer r ses).1 := by
  unfold State.routeNewcomer
  dsimp only
  split
  · split
    · exact k.admitted h hn
    · next hfit =>
      split
      · split
        · next vs hvs => exact k.preempted h hn hfit hvs
        · exact k.queueRoute h r hn
      · exact k.queueRoute h r hn
  · exact k.queueRoute h r hn

theorem KeepsTables.admitChecked (k : KeepsTables P) (h : P s) (p : PortIx) (r : Request) : P (s.admitChecked p r).1 := by
  unfold State.admitChecked
  dsimp only
  split
  · exact h
  · next hpass => exact k.routeNewcomer h r (takesNewcomer_of_admitRefusal hpass)

theorem KeepsTables.withRecord (h : P s) {p : PortIx} {r : Request} {act : Session → Stage → State × Reply}
    (hact : ∀ ses st, s.liveAt r.handle.index = some (ses, st) → P (act ses st).1) : P (s.withRecord p r act).1 := by
  unfold State.withRecord
  split
  · next hl =>
    split
    · split
      · exact hact _ _ hl
      · exact h
    · exact h
  · exact h

theorem KeepsTables.confirmRecord (k : KeepsTables P) (h : P s) (r : Request) {ses : Session} {st : Stage}
    (hl : s.liveAt r.handle.index = some (ses, st)) : P (s.confirmRecord r ses st).1 := by
  cases st with
  | setup stamp g => exact k.confirmed h hl
  | queued | held | active | ceding => exact h

theorem KeepsTables.releaseRecord (k : KeepsTables P) (h : P s) (r : Request) {ses : Session} {st : Stage}
    (hl : s.liveAt r.handle.index = some (ses, st)) : P (s.releaseRecord r ses st).1 := by
  have hgone : P ((s.giveUp r.handle.index ses st).retire r.handle.index) := k.retired h hl (.inl rfl)
  exact k.serviceWhen hgone _ _

theorem KeepsTables.resizeTo (k : KeepsTables P) (h : P s) {i d : Nat} {ses : Session} {st : Stage}
    (hl : s.liveAt i = some (ses, st)) (hst : st.isAdmitted = true) (hd : 1 ≤ d) : P (s.resizeTo i ses st d).1 := by
  unfold State.resizeTo
  split
  · exact h
  · next hne =>
    split
    · unfold State.changeDemand
      dsimp only
      split
      · next hlt => exact k.servicePass (k.decreased h hl hst hd hlt) _
      · exact k.increased h hl hst (by omega)
    · exact h

theorem KeepsTables.resizeRecord (k : KeepsTables P) (h : P s) (r : Request) {ses : Session} {st : Stage}
    (hl : s.liveAt r.handle.index = some (ses, st)) : P (s.resizeRecord r ses st).1 := by
  cases st with
  | setup | active => exact k.resizeTo h hl rfl (Nat.le_max_left ..)
  | queued | held | ceding => exact h

theorem KeepsTables.moveTo (k : KeepsTables P) (h : P s) (r : Request) {ses : Session} {st : Stage}
    (hl : s.liveAt r.handle.index = some (ses, st)) (hst : st.isAdmitted = true) : P (s.moveTo r ses st).1 := by
  unfold State.moveTo
  split
  · exact h
  · next hpass =>
    dsimp only
    rw [State.carryRecord_eq]
    exact k.servicePass (k.moved h hl hst hpass) _

theorem KeepsTables.moveRecord (k : KeepsTables P) (h : P s) (r : Request) {ses : Session} {st : Stage}
    (hl : s.liveAt r.handle.index = some (ses, st)) : P (s.moveRecord r ses st).1 := by
  cases st with
  | setup | active => exact k.moveTo h r hl rfl
  | queued | held | ceding => exact h

theorem KeepsEvents.serve (k : KeepsEvents P) (h : P s) {wanted : Request → Bool} {bad : Lane → Request → State → Bool}
    {act : PortIx → Request → State → State × Reply} (hact : ∀ p r {u : State}, P u → P (act p r u).1) :
    Yields P (s.serve wanted fun p l r t => t.engine p r (bad l r t) (act p r)) := by
  unfold State.serve
  split
  · next l p r hchoice =>
    have hu := k.handedOver h hchoice
    split
    · refine Yields.next ?_
      dsimp only [State.engine]
      split
      · split
        · exact k.answered _ _ _ hu
        · exact k.answered _ _ _ (hact p r hu)
      · exact k.answered _ _ _ hu
    · exact Yields.next h
  · exact Yields.next h

/-- The same for a rule on the record that a handle names. -/
theorem KeepsEvents.serve_record (k : KeepsEvents P) (h : P s) {wanted : Request → Bool}
    {act : Request → State → Session → Stage → State × Reply}
    (hact : ∀ r {u : State} {ses st}, P u → u.liveAt r.handle.index = some (ses, st) → P (act r u ses st).1) :
    Yields P (s.serve wanted fun p _ r t => t.engine p r r.malformed fun u => u.withRecord p r (act r u)) :=
  k.serve h (bad := fun _ r _ => r.malformed) (act := fun p r u => u.withRecord p r (act r u)) fun _ r _ hu =>
    KeepsTables.withRecord hu fun _ _ hl => hact r hu hl

theorem KeepsEvents.execWithdraw (k : KeepsEvents P) (h : P s) : Yields P (execWithdraw s) := by
  unfold Machine.execWithdraw State.serve
  split
  · next l p r hchoice =>
    split
    · exact Yields.next (k.withdrawn h hchoice)
    · exact Yields.next h
  · exact Yields.next h

/-! ### The link, the deadlines, the drains -/

theorem KeepsEvents.execFrameArrival (k : KeepsEvents P) (h : P s) (p : PortIx) (bytes : List Byte) :
    Yields P (execFrameArrival p bytes s) := by
  unfold Machine.execFrameArrival
  split
  · exact Yields.next h
  · exact Yields.next (k.discarded p h)
  · exact Yields.next (k.arrived p _ h)

theorem KeepsEvents.execResponseSent (k : KeepsEvents P) (h : P s) (p : PortIx) : Yields P (execResponseSent p s) := by
  unfold Machine.execResponseSent
  split
  · exact Yields.next h
  · next ht => exact Yields.next (k.sent _ _ h ht)

theorem KeepsTimed.atSupervision (k : KeepsTimed P) (h : P s) (p : PortIx) : P (s.atSupervision p) := by
  unfold State.atSupervision
  split
  · next hdue =>
    simp only [State.supervisionDue, Bool.and_eq_true] at hdue
    exact k.expired h hdue.1
  · exact h

theorem KeepsTimed.atPulseEnd (k : KeepsTimed P) (h : P s) (p : PortIx) : P (s.atPulseEnd p) := by
  unfold State.atPulseEnd
  split
  · next hdue => exact k.pulseEnded h hdue
  · exact h

theorem KeepsTimed.take (k : KeepsTimed P) (h : P s) (e : Expiry) : P (s.take e) := by
  cases e with
  | setupGuard i => exact k.atSetupGuard h i
  | grace i => exact k.atGrace h i
  | wait i => exact k.atWait h i
  | supervision p => exact k.atSupervision h p
  | pulse p => exact k.atPulseEnd h p

theorem KeepsTimed.settleCellDrain (k : KeepsTimed P) (h : P s) {c : CellIx} (hj : s.job = some (.cellDrain c)) :
    P (s.settleCellDrain c) := by
  unfold State.settleCellDrain
  split
  · next hempty => exact k.cellDrained h hj hempty
  · exact h

theorem KeepsTimed.settlePortDrain (k : KeepsTimed P) (h : P s) {p : PortIx} (hj : s.job = some (.portDrain p)) :
    P (s.settlePortDrain p) := by
  unfold State.settlePortDrain
  split
  · next hempty => exact k.portDrained h hj hempty
  · exact h

theorem KeepsTimed.startDrain (k : KeepsTimed P) (h : P s) : P s.startDrain := by
  unfold State.startDrain
  split
  · next j hjob hnext =>
    have hb := k.begun h hjob hnext
    cases j with
    | portDrain p => exact k.settlePortDrain hb rfl
    | cellDrain c => exact k.settleCellDrain hb rfl
  · exact h

theorem KeepsTimed.startDrains (k : KeepsTimed P) (h : P s) (n : Nat) : P (s.startDrains n) := by
  induction n generalizing s with
  | zero => exact h
  | succ n ih => exact ih (k.startDrain h)

/-- What TICK takes before the tick moves on (R113). -/
theorem KeepsTimed.taken (k : KeepsTimed P) (h : P s) (es : List Expiry) (n : Nat) :
    P ((es.foldl State.take s).startDrains n) :=
  k.startDrains (List.foldlRecOn _ _ h fun _ hu e _ => k.take hu e) n

theorem KeepsEvents.execCellDrainStep (k : KeepsEvents P) (h : P s) : Yields P (execCellDrainStep s) := by
  unfold Machine.execCellDrainStep
  split
  · next hj =>
    split
    · exact Yields.next (k.settleCellDrain (k.drainRecord h ..) ((still_drainRecord ..).quiet.job.trans hj))
    · exact Yields.next (k.settleCellDrain h hj)
  · exact Yields.next h

theorem KeepsEvents.execPortDrainStep (k : KeepsEvents P) (h : P s) : Yields P (execPortDrainStep s) := by
  unfold Machine.execPortDrainStep
  split
  · next hj =>
    split
    · exact Yields.next (k.settlePortDrain (k.drainRecord h ..) ((still_drainRecord ..).quiet.job.trans hj))
    · exact Yields.next (k.settlePortDrain h hj)
  · exact Yields.next h

/-! ### The management port -/

theorem KeepsEvents.advance (k : KeepsEvents P) (h : P s) : P s.advance := k.accessed _ _ _ _ h

/-- A write command that stands at its field takes it and moves the address on; elsewhere nothing changes. -/
theorem KeepsEvents.nextAdvance (k : KeepsEvents P) (h : P s) : Yields P (.next s.advance) := Yields.next (k.advance h)

theorem KeepsEvents.execHighByteRead (k : KeepsEvents P) (h : P s) : Yields P (execHighByteRead s) := by
  unfold Machine.execHighByteRead
  split
  · split
    · exact Yields.next (k.advance (k.accessed s.transaction _ _ _ h))
    · exact Yields.next h
  · exact Yields.next h

theorem KeepsEvents.execOpenTable (k : KeepsEvents P) (h : P s) : Yields P (execOpenTable s) := by
  unfold Machine.execOpenTable
  split
  · exact k.nextAdvance (k.tableOpened h)
  · exact Yields.next h

theorem KeepsEvents.execTableReset (k : KeepsEvents P) (h : P s) : Yields P (execTableReset s) := by
  unfold Machine.execTableReset
  split
  · exact k.nextAdvance (k.tableReset h)
  · exact Yields.next h

theorem KeepsEvents.openCommand (k : KeepsEvents P) (h : P s) (c : CellIx) : P (s.openCommand c) := by
  unfold State.openCommand
  split
  · next hst => exact k.opened h hst
  · exact k.refused c h

theorem KeepsEvents.barCommand (k : KeepsEvents P) (h : P s) (c : CellIx) : P (s.barCommand c) := by
  unfold State.barCommand
  split
  · next hst => exact k.barred h hst
  · exact k.refused c h

theorem KeepsEvents.unbarCommand (k : KeepsEvents P) (h : P s) (c : CellIx) : P (s.unbarCommand c) := by
  unfold State.unbarCommand
  split
  · next hst => exact k.servicePass (k.unbarred h hst) c
  · exact k.refused c h

theorem KeepsEvents.drainCommand (k : KeepsEvents P) (h : P s) (c : CellIx) : P (s.drainCommand c) := by
  unfold State.drainCommand
  split
  · next hst => exact k.draining h hst
  · exact k.refused c h

theorem KeepsEvents.stopDrainCommand (k : KeepsEvents P) (h : P s) (c : CellIx) : P (s.stopDrainCommand c) := by
  unfold State.stopDrainCommand
  split
  · next hst => exact k.stopped h hst
  · exact k.refused c h

/-- A cell command acts on the cell of its field. -/
theorem KeepsEvents.cellCommand (k : KeepsEvents P) (h : P s) {act : CellIx → State} (hact : ∀ c, P (act c)) :
    Yields P (match s.writeField with
      | some (.cellCommand c, _) => .next (act c).advance
      | _ => .next s) := by
  split
  · exact k.nextAdvance (hact _)
  · exact Yields.next h

theorem KeepsEvents.execAttentionWrite (k : KeepsEvents P) (h : P s) (b : Byte) : Yields P (execAttentionWrite b s) := by
  unfold Machine.execAttentionWrite
  split
  · exact k.nextAdvance (k.attention _ b h)
  · exact k.nextAdvance (k.pulseWidth _ b h)
  · exact Yields.next h

theorem KeepsEvents.execRingSizeWrite (k : KeepsEvents P) (h : P s) (b : Byte) : Yields P (execRingSizeWrite b s) := by
  unfold Machine.execRingSizeWrite
  split
  · exact k.nextAdvance (k.ringSize _ b h)
  · exact Yields.next h

theorem KeepsEvents.execEventRawWrite (k : KeepsEvents P) (h : P s) (b : Byte) : Yields P (execEventRawWrite b s) := by
  unfold Machine.execEventRawWrite
  split
  · exact k.nextAdvance (k.eventsSet _ _ h)
  · exact Yields.next h

theorem KeepsEvents.execEventEnableWrite (k : KeepsEvents P) (h : P s) (b : Byte) : Yields P (execEventEnableWrite b s) := by
  unfold Machine.execEventEnableWrite
  split
  · exact k.nextAdvance (k.eventsSet _ _ h)
  · exact Yields.next h

/-! ### Commands that write no configuration -/

/-- The commands that may change the tick or a configuration field (R22, R32, R72, R113, R123). -/
def Instr.configures (c : Instr) : Bool :=
  match c with
  | .pinReset | .tick | .registerWrite _ | .capacityWrite _ | .floorWrite _ | .thresholdWrite _ | .ownerPortWrite _
  | .depthLimitWrite _ | .agingWeightWrite _ | .supervisionIntervalWrite _ => true
  | _ => false

/-- A predicate that the events keep is kept by every command that writes no configuration. -/
theorem KeepsEvents.exec (k : KeepsEvents P) (h : P s) (c : Instr) (hc : Instr.configures c = false) : Yields P (exec c s) := by
  cases c with
  | pinReset | tick | registerWrite | capacityWrite | floorWrite | thresholdWrite | ownerPortWrite | depthLimitWrite
  | agingWeightWrite | supervisionIntervalWrite => cases hc
  | frameArrival p bytes => exact k.execFrameArrival h p bytes
  | admitRequest =>
    exact k.serve h (bad := fun l r t => t.badAdmit l r) (act := fun p r u => u.admitChecked p r) fun p r _ hu =>
      k.admitChecked hu p r
  | confirmRequest => exact k.serve_record h (act := fun r u => u.confirmRecord r) fun r _ _ _ hu hl => k.confirmRecord hu r hl
  | releaseRequest => exact k.serve_record h (act := fun r u => u.releaseRecord r) fun r _ _ _ hu hl => k.releaseRecord hu r hl
  | lookupRequest => 
    exact k.serve h (bad := fun _ r _ => r.malformed) (act := fun p r u => (u, u.lookupKey p r)) fun _ _ _ hu => hu
  | queryRequest => exact k.serve_record h fun _ _ _ _ hu _ => hu
  | amendSet => exact k.serve_record h fun _ _ _ _ hu hl => k.tagged _ hu hl
  | amendClear => exact k.serve_record h fun _ _ _ _ hu hl => k.tagged _ hu hl
  | amendTest => exact k.serve_record h fun _ _ _ _ hu _ => hu
  | amendExchange => exact k.serve_record h fun _ _ _ _ hu hl => k.tagged _ hu hl
  | resizeRequest =>
    refine k.serve h (bad := fun _ r _ => r.malformed) (act := fun p r u => ((u.withRecord p r (u.resizeRecord r)).1,
      (u.withRecord p r (u.resizeRecord r)).2.clampedWhen (decide (r.resizeDemand = 0)))) fun p r u hu => ?_
    exact KeepsTables.withRecord hu fun _ _ hl => k.resizeRecord hu r hl
  | moveRequest => exact k.serve_record h (act := fun r u => u.moveRecord r) fun r _ _ _ hu hl => k.moveRecord hu r hl
  | fetchRequest => 
    exact k.serve h (bad := fun _ r _ => r.malformed) (act := fun p r u => u.fetchReply p r.count) fun p r _ hu =>
      k.fetched p _ hu
  | cellStatusRequest =>
    exact k.serve h (bad := fun _ r _ => r.malformed) (act := fun _ r u => (u, u.statusReply r.statusCell)) fun _ _ _ hu => hu
  | withdrawRequest => exact k.execWithdraw h
  | nullRequest =>
    exact k.serve h (bad := fun _ r _ => r.malformed) (act := fun _ _ u => (u, bare .ok)) fun _ _ _ hu => hu
  | responseSent p => exact k.execResponseSent h p
  | setupGuardExpiry i => exact Yields.next (k.atSetupGuard h i)
  | graceExpiry i => exact Yields.next (k.atGrace h i)
  | waitExpiry i => exact Yields.next (k.atWait h i)
  | supervisionExpiry p => exact Yields.next (k.atSupervision h p)
  | pulseEnd p => exact Yields.next (k.atPulseEnd h p)
  | drainJobStart => exact Yields.next (k.startDrain h)
  | cellDrainStep => exact k.execCellDrainStep h
  | portDrainStep => exact k.execPortDrainStep h
  | selectAssert command address => exact Yields.next (k.accessed _ _ _ _ h)
  | openTable => exact k.execOpenTable h
  | tableReset => exact k.execTableReset h
  | openCell => exact k.cellCommand h (k.openCommand h)
  | barCell => exact k.cellCommand h (k.barCommand h)
  | unbarCell => exact k.cellCommand h (k.unbarCommand h)
  | drainCell => exact k.cellCommand h (k.drainCommand h)
  | stopDrain => exact k.cellCommand h (k.stopDrainCommand h)
  | attentionWrite b => exact k.execAttentionWrite h b
  | ringSizeWrite b => exact k.execRingSizeWrite h b
  | eventRawWrite b => exact k.execEventRawWrite h b
  | eventEnableWrite b => exact k.execEventEnableWrite h b
  | highByteRead => exact k.execHighByteRead h
  | selectRelease => exact Yields.next (k.accessed _ _ _ _ h)

/-! ### Commands that write configuration -/

theorem KeepsAll.execTick (k : KeepsAll P) (h : P s) : Yields P (execTick s) :=
  Yields.next (k.ticked _ _ (k.taken h _ _))

theorem KeepsAll.execRegisterWrite (k : KeepsAll P) (h : P s) (b : Byte) : Yields P (execRegisterWrite b s) := by
  unfold Machine.execRegisterWrite
  split
  · split
    · split
      · exact Yields.next h
      · exact k.nextAdvance (k.stored _ _ b h)
    · exact k.nextAdvance h
  · exact Yields.next h

theorem KeepsAll.execCapacityWrite (k : KeepsAll P) (h : P s) (b : Byte) : Yields P (execCapacityWrite b s) := by
  unfold Machine.execCapacityWrite
  split
  · refine k.nextAdvance ?_
    unfold State.writeCapacity
    dsimp only
    split
    · exact h
    · exact k.serviceWhen (k.capacity h (s.delivered b).isLt) _ _
  · exact Yields.next h

theorem KeepsAll.execFloorWrite (k : KeepsAll P) (h : P s) (b : Byte) : Yields P (execFloorWrite b s) := by
  unfold Machine.execFloorWrite
  split
  · exact k.nextAdvance (k.serviceWhen (k.floor h (s.delivered b).isLt) _ _)
  · exact Yields.next h

theorem KeepsAll.execThresholdWrite (k : KeepsAll P) (h : P s) (b : Byte) : Yields P (execThresholdWrite b s) := by
  have kept {same : Prop} [Decidable same] {t : State} (ht : P t) : P (if same then s else t) := by
    split
    · exact h
    · exact ht
  unfold Machine.execThresholdWrite
  split
  · exact k.nextAdvance (kept (k.threshold1 _ _ h))
  · exact k.nextAdvance (kept (k.threshold2 _ _ h))
  · exact k.nextAdvance (kept (k.threshold3 _ _ h))
  · exact Yields.next h

theorem KeepsAll.execOwnerPortWrite (k : KeepsAll P) (h : P s) (b : Byte) : Yields P (execOwnerPortWrite b s) := by
  unfold Machine.execOwnerPortWrite
  split
  · refine k.nextAdvance ?_
    unfold State.writeOwner
    split
    · next hc => exact k.owner _ h hc.1 hc.2
    · exact h
  · exact Yields.next h

theorem KeepsAll.execDepthLimitWrite (k : KeepsAll P) (h : P s) (b : Byte) : Yields P (execDepthLimitWrite b s) := by
  unfold Machine.execDepthLimitWrite
  split
  · exact k.nextAdvance (k.serviceWhen (k.cutQueue (k.depthLimit _ _ h) ..) _ _)
  · exact Yields.next h

theorem KeepsAll.execAgingWeightWrite (k : KeepsAll P) (h : P s) (b : Byte) : Yields P (execAgingWeightWrite b s) := by
  unfold Machine.execAgingWeightWrite
  split
  · refine k.nextAdvance ?_
    unfold State.writeAgingWeight
    split
    · exact h
    · exact k.reweighed _ h
  · exact Yields.next h

/-- The entry of one port to DRAINING leaves whether another is watched (R147). -/
theorem State.watched_expirePort {p o : PortIx} (h : o ≠ p) : (s.expirePort p).watched o = s.watched o := by
  have hquiet : Quiet (s.turnAway p) ((s.turnAway p).clearNotices p) := (still_clearNotices _ p).quiet
  have hstate : ((s.expirePort p).port o).state = (s.port o).state := by
    unfold State.expirePort
    rw [State.raiseEvent_port, State.enterDraining_eq, State.chooseJob_port, State.port_modPort_ne _ _ _ _ h, hquiet.portState o,
      State.turnAway, State.port_modPort_ne _ _ _ _ h]
  have hsup : (s.expirePort p).supervision = s.supervision :=
    (congrArg Background.supervision hquiet.1 : ((s.turnAway p).clearNotices p).supervision = _)
  unfold State.watched
  rw [hstate, hsup]

theorem KeepsEvents.expireAll (k : KeepsEvents P) (h : P s) (l : List PortIx) (hn : l.Nodup) (hw : ∀ p ∈ l, s.watched p = true) :
    P (l.foldl State.expirePort s) := by
  induction l generalizing s with
  | nil => exact h
  | cons p rest ih =>
    obtain ⟨hp, hn⟩ := List.nodup_cons.1 hn
    refine ih (k.expired h (hw p List.mem_cons_self)) hn fun o ho => ?_
    rw [State.watched_expirePort (by rintro rfl; exact hp ho)]
    exact hw o (List.mem_cons_of_mem _ ho)

theorem KeepsEvents.expirePorts (k : KeepsEvents P) (h : P s) : P s.expirePorts := by
  have hperm := openOrder_perm s.freeDraws s.overduePorts
  refine k.accessed (s := (openOrder s.freeDraws s.overduePorts).foldl State.expirePort s) _ _ _ _ (k.expireAll h _ ?_ fun p hp => ?_)
  · exact hperm.nodup_iff.2 ((List.nodup_finRange 4).filter _)
  · have := (List.mem_filter.1 (hperm.mem_iff.1 hp)).2
    simp only [Bool.and_eq_true] at this
    exact this.1

theorem KeepsAll.execSupervisionIntervalWrite (k : KeepsAll P) (h : P s) (b : Byte) :
    Yields P (execSupervisionIntervalWrite b s) := by
  unfold Machine.execSupervisionIntervalWrite
  split
  · refine k.nextAdvance ?_
    have hset := k.supervision (s.delivered b).toNat h
    unfold State.writeSupervision
    dsimp only
    split
    · exact h
    · split
      · exact hset
      · split
        · exact k.watchRestarted hset
        · exact k.expirePorts hset
  · exact Yields.next h

/-- A predicate that all events keep is kept by every command. -/
theorem KeepsAll.exec (k : KeepsAll P) (h : P s) (c : Instr) : Yields P (exec c s) := by
  cases hc : Instr.configures c with
  | false => exact k.toKeepsEvents.exec h c hc
  | true =>
    cases c with
    | pinReset => exact Yields.next (k.pinReset h)
    | tick => exact k.execTick h
    | registerWrite b => exact k.execRegisterWrite h b
    | capacityWrite b => exact k.execCapacityWrite h b
    | floorWrite b => exact k.execFloorWrite h b
    | thresholdWrite b => exact k.execThresholdWrite h b
    | ownerPortWrite b => exact k.execOwnerPortWrite h b
    | depthLimitWrite b => exact k.execDepthLimitWrite h b
    | agingWeightWrite b => exact k.execAgingWeightWrite h b
    | supervisionIntervalWrite b => exact k.execSupervisionIntervalWrite h b
    | _ => cases hc

/-- A predicate that all events keep and that does not look at the queue of commands is kept by every step. -/
theorem KeepsAll.step (k : KeepsAll P) (hp : ∀ {s : State} (q : List Instr), P s → P { s with pending := q }) (h : P s) {t : State}
    (hs : step s = .next t) : P t := by
  unfold Machine.step at hs
  split at hs
  · exact Yields.next h t hs
  · exact k.exec (hp _ h) _ t hs

end

end Sys2Proof.Machine
end

section
/-! Proofs of the statements about the machine as a whole: a step runs the front command, every command answers, and
configuration changes by its writes alone. -/

namespace Sys2Proof.Machine

/-- Settles O1, by the two cases of a step. -/
theorem stepRunsFrontCommand : Obligations.StepRunsFrontCommand := by
  refine ⟨fun c rest s h => ?_, fun s h => ?_⟩
  · unfold step
    rw [h]
  · unfold step
    rw [h]

/-! ### Every command answers -/

/-- A command answers a next state, which is the state itself where the command does not happen. -/
def Completes (o : Host.Outcome State Fault Refusal) (s : State) (happening : Bool) : Prop :=
  ∃ t, o = .next t ∧ (happening = false → t = s)

theorem Completes.taken {s t : State} {b : Bool} (h : b = true) : Completes (.next t) s b :=
  ⟨t, rfl, fun hb => by simp [hb] at h⟩

theorem Completes.idle {s : State} {b : Bool} : Completes (.next s) s b := ⟨s, rfl, fun _ => rfl⟩

theorem State.serve_completes (s : State) (wanted : Request → Bool) (carry : PortIx → Lane → Request → State → State) :
    Completes (s.serve wanted carry) s (s.offers wanted) := by
  unfold State.serve
  split
  · next h =>
    split
    · next hw => exact .taken (by simpa [State.offers, h] using hw)
    · exact .idle
  · exact .idle

/-- An expiry of a record happens where its deadline kind and the tick agree (R115, R116). -/
theorem State.deadlineAt_eq {s : State} {i : Nat} {ses : Session} {st : Stage} (h : s.liveAt i = some (ses, st)) :
    s.deadlineAt i = st.deadline? := by
  unfold State.deadlineAt
  rw [h]

theorem execSetupGuardExpiry_completes (i : Nat) (s : State) :
    Completes (execSetupGuardExpiry i s) s (happens (.setupGuardExpiry i) s) := by
  unfold execSetupGuardExpiry State.atSetupGuard
  split
  · next hl =>
    split
    · next hd => exact .taken (by simp [happens, State.deadlineAt_eq hl, Stage.deadline?, hd])
    · exact .idle
  · exact .idle

theorem execGraceExpiry_completes (i : Nat) (s : State) : Completes (execGraceExpiry i s) s (happens (.graceExpiry i) s) := by
  unfold execGraceExpiry State.atGrace
  split
  · next hl =>
    split
    · next hd => exact .taken (by simp [happens, State.deadlineAt_eq hl, Stage.deadline?, hd])
    · exact .idle
  · exact .idle

theorem execWaitExpiry_completes (i : Nat) (s : State) : Completes (execWaitExpiry i s) s (happens (.waitExpiry i) s) := by
  unfold execWaitExpiry State.atWait
  split
  · next hl =>
    split
    · next hd => exact .taken (by simp [happens, State.deadlineAt_eq hl, Stage.deadline?, hd])
    · exact .idle
  · exact .idle

theorem ite_completes {s t : State} {b : Bool} : Completes (.next (if b = true then t else s)) s b := by
  cases b with
  | true => exact .taken rfl
  | false => exact .idle

theorem execDrainSteps_complete (s : State) :
    Completes (execCellDrainStep s) s (happens .cellDrainStep s) ∧ Completes (execPortDrainStep s) s (happens .portDrainStep s) := by
  unfold execCellDrainStep execPortDrainStep
  constructor
  · split
    · next hj => split <;> exact .taken (by simp [happens, hj])
    · exact .idle
  · split
    · next hj => split <;> exact .taken (by simp [happens, hj])
    · exact .idle

theorem execHighByteRead_completes (s : State) : Completes (execHighByteRead s) s (happens .highByteRead s) := by
  unfold execHighByteRead
  split
  · next ht =>
    split
    · next hd => exact .taken (by simp [happens, ht, hd])
    · exact .idle
  · exact .idle

theorem execRegisterWrite_completes (b : Byte) (s : State) :
    Completes (execRegisterWrite b s) s (happens (.registerWrite b) s) := by
  unfold execRegisterWrite
  split
  · next ha =>
    split
    · next hf =>
      split
      · exact .idle
      · next hrow => exact .taken (by simpa [happens, ha, hf] using hrow)
    · next hf => exact .taken (by simp [happens, ha, hf])
  · exact .idle

/-- A command at its own field of the window happens there; the other cell commands and writes are told apart by their field. -/
theorem State.writesTo_of {s : State} {want : Field → Part → Bool} {f : Field} {part : Part} (h : s.writeField = some (f, part))
    (hw : want f part = true) : s.writesTo want = true := by
  unfold State.writesTo
  rw [h]
  exact hw

theorem cellCommand_completes (s : State) (act : CellIx → State) :
    Completes (match s.writeField with
      | some (.cellCommand c, _) => .next (act c)
      | _ => .next s) s (s.writesTo isCellCommand) := by
  split
  · next h => exact .taken (State.writesTo_of h rfl)
  · exact .idle

theorem tableCommand_completes (s t : State) :
    Completes (match s.writeField with
      | some (.tableControl, _) => .next t
      | _ => .next s) s (s.writesTo fun f _ => decide (f = .tableControl)) := by
  split
  · next h => exact .taken (State.writesTo_of h rfl)
  · exact .idle

/-- Every command answers a next state, and changes nothing where its event cannot be taken. -/
theorem exec_completes (c : Instr) (s : State) : Completes (exec c s) s (happens c s) := by
  cases c with
  | pinReset | tick | selectAssert | selectRelease => exact .taken rfl
  | frameArrival p bytes =>
    unfold exec execFrameArrival
    dsimp only
    split
    · exact .idle
    · next h => exact .taken (by simp [happens, h])
    · next h => exact .taken (by simp [happens, h])
  | admitRequest | confirmRequest | releaseRequest | lookupRequest | queryRequest | amendSet | amendClear | amendTest
  | amendExchange | resizeRequest | moveRequest | fetchRequest | cellStatusRequest | withdrawRequest | nullRequest =>
    simp only [exec, execAdmit, execConfirm, execRelease, execLookup, execQuery, execAmendSet, execAmendClear, execAmendTest,
      execAmendExchange, execResize, execMove, execFetch, execCellStatus, execWithdraw, execNull, happens]
    exact s.serve_completes _ _
  | responseSent p =>
    unfold exec execResponseSent
    dsimp only
    split
    · exact .idle
    · next h => exact .taken (by simp [happens, h])
  | setupGuardExpiry i => exact execSetupGuardExpiry_completes i s
  | graceExpiry i => exact execGraceExpiry_completes i s
  | waitExpiry i => exact execWaitExpiry_completes i s
  | supervisionExpiry p => exact ite_completes
  | pulseEnd p => exact ite_completes
  | drainJobStart =>
    refine ⟨_, rfl, fun h => State.startDrain_of_idle h⟩
  | cellDrainStep => exact (execDrainSteps_complete s).1
  | portDrainStep => exact (execDrainSteps_complete s).2
  | openTable | tableReset => exact tableCommand_completes s _
  | openCell => exact cellCommand_completes s fun c => (s.openCommand c).advance
  | barCell => exact cellCommand_completes s fun c => (s.barCommand c).advance
  | unbarCell => exact cellCommand_completes s fun c => (s.unbarCommand c).advance
  | drainCell => exact cellCommand_completes s fun c => (s.drainCommand c).advance
  | stopDrain => exact cellCommand_completes s fun c => (s.stopDrainCommand c).advance
  | capacityWrite | floorWrite | ownerPortWrite | depthLimitWrite | agingWeightWrite | supervisionIntervalWrite | ringSizeWrite
  | eventRawWrite | eventEnableWrite =>
    simp only [exec, execCapacityWrite, execFloorWrite, execOwnerPortWrite, execDepthLimitWrite, execAgingWeightWrite,
      execSupervisionIntervalWrite, execRingSizeWrite, execEventRawWrite, execEventEnableWrite]
    split
    · next h => exact .taken (State.writesTo_of h rfl)
    · exact .idle
  | thresholdWrite b =>
    simp only [exec, execThresholdWrite]
    split
    · next h => exact .taken (State.writesTo_of h rfl)
    · next h => exact .taken (State.writesTo_of h rfl)
    · next h => exact .taken (State.writesTo_of h rfl)
    · exact .idle
  | attentionWrite b =>
    simp only [exec, execAttentionWrite]
    split
    · next h => exact .taken (State.writesTo_of h rfl)
    · next h => exact .taken (State.writesTo_of h rfl)
    · exact .idle
  | highByteRead => exact execHighByteRead_completes s
  | registerWrite b => exact execRegisterWrite_completes b s

/-! ### The queue of commands -/

theorem State.pending_enterDraining (s : State) (p : PortIx) : (s.enterDraining p).pending = s.pending :=
  (still_clearNotices (s.turnAway p) p).quiet.pending

theorem State.pending_handOver (s : State) (l : Lane) (p : PortIx) : (s.handOver l p).pending = s.pending := by
  cases l <;> rfl

theorem State.pending_closeCell (s : State) (c : CellIx) : (s.closeCell c).pending = s.pending := by
  unfold State.closeCell
  dsimp only
  split
  · rfl
  · exact (still_raiseLevel ..).quiet.pending

theorem State.pending_storePart (s : State) (f : Field) (part : Part) (b : Byte) : (s.storePart f part b).pending = s.pending := by
  unfold State.storePart State.storeByte State.storeHalf
  cases part with
  | whole => dsimp only; split <;> rfl
  | high => dsimp only; split <;> rfl
  | low => dsimp only; split <;> rfl

theorem State.pending_placeRequest (s : State) (p : PortIx) (r : Request) : (s.placeRequest p r).pending = s.pending := by
  unfold State.placeRequest
  split <;> rfl

theorem State.pending_acceptFrame (s : State) (p : PortIx) (r : Request) : (s.acceptFrame p r).pending = s.pending := by
  unfold State.acceptFrame
  split
  · rfl
  · exact State.pending_placeRequest ..

/-- Every event leaves the queue of commands alone. -/
theorem keepsAll_pending (q : List Instr) : KeepsAll fun s => s.pending = q where
  toKeepsTables := KeepsTables.of_quiet fun hq h => hq.pending.trans h
  handedOver h _ := (State.pending_handOver ..).trans h
  answered _ _ _ h := h
  discarded _ h := h
  arrived _ _ h := (State.pending_acceptFrame ..).trans h
  sent _ _ h _ := h
  withdrawn h _ := (State.pending_enterDraining ..).trans ((State.pending_handOver ..).trans h)
  expired h _ := (State.pending_enterDraining ..).trans h
  pulseEnded h _ := h
  begun {_ j} h _ _ := by cases j <;> exact h
  cellDrained h _ _ := (State.pending_closeCell ..).trans h
  portDrained h _ _ := h
  accessed _ _ _ _ h := h
  tableOpened h := h
  tableReset h := h
  opened h _ := (still_recompute ..).quiet.pending.trans h
  barred h _ := h
  unbarred h _ := h
  draining h _ := h
  stopped h _ := h
  refused _ h := h
  watchRestarted h := h
  attention _ _ h := h
  pulseWidth _ _ h := h
  ringSize _ _ h := h
  eventsSet _ _ h := h
  pinReset h := h
  ticked _ _ h := h
  stored f part b h := (State.pending_storePart ..).trans h
  capacity h _ := (still_recompute ..).quiet.pending.trans h
  floor h _ := h
  threshold1 _ _ h := (still_recompute ..).quiet.pending.trans h
  threshold2 _ _ h := (still_recompute ..).quiet.pending.trans h
  threshold3 _ _ h := (still_recompute ..).quiet.pending.trans h
  owner _ h _ _ := h
  depthLimit _ _ h := h
  reweighed _ h := h
  supervision _ h := h

/-- Settles O2, by the cases in which each command happens, and by the events it is made of. -/
theorem commandsCompleteAndKeepTheQueue : Obligations.CommandsCompleteAndKeepTheQueue := by
  intro c s
  obtain ⟨t, ht, hidle⟩ := exec_completes c s
  exact ⟨t, ht, (keepsAll_pending s.pending).exec rfl c t ht, hidle⟩

/-! ### Configuration -/

/-- The configuration of a cell: its settings with the fields that commands move left out. -/
def Cell.configuration (k : Cell) : CellSettings :=
  { k.settings with state := .closed, result := .done, drainFlag := false }

/-- The tick, the class table, the aging weight, the supervision interval and every cell's configuration are as they were. -/
def SameConfiguration (s t : State) : Prop :=
  t.tick = s.tick ∧ t.classes = s.classes ∧ t.agingWeight = s.agingWeight ∧ t.supervision = s.supervision
    ∧ ∀ d, (t.cell d).configuration = (s.cell d).configuration

theorem SameConfiguration.refl (s : State) : SameConfiguration s s := ⟨rfl, rfl, rfl, rfl, fun _ => rfl⟩

theorem SameConfiguration.trans {s t u : State} (h1 : SameConfiguration s t) (h2 : SameConfiguration t u) : SameConfiguration s u := by
  obtain ⟨a1, a2, a3, a4, a5⟩ := h1
  obtain ⟨b1, b2, b3, b4, b5⟩ := h2
  exact ⟨b1.trans a1, b2.trans a2, b3.trans a3, b4.trans a4, fun d => (b5 d).trans (a5 d)⟩

theorem SameConfiguration.of_quiet {s t : State} (h : Quiet s t) : SameConfiguration s t := by
  obtain ⟨hb, hc, -⟩ := h
  refine ⟨congrArg Background.tick hb, congrArg Background.classes hb, congrArg Background.agingWeight hb,
    congrArg Background.supervision hb, fun d => ?_⟩
  unfold Cell.configuration
  rw [hc d]

theorem SameConfiguration.modCell (s : State) (c : CellIx) (f : Cell → Cell)
    (hf : ∀ k, (f k).configuration = k.configuration) : SameConfiguration s (s.modCell c f) := by
  refine ⟨rfl, rfl, rfl, rfl, fun d => ?_⟩
  rw [State.cell_modCell]
  split
  · next h => rw [h, hf]
  · rfl

theorem SameConfiguration.commandDone (s : State) (c : CellIx) (st : CellState) : SameConfiguration s (s.commandDone c st) :=
  SameConfiguration.modCell s c (fun k => { k with state := st, result := .done }) fun _ => rfl

theorem SameConfiguration.commandRefused (s : State) (c : CellIx) : SameConfiguration s (s.commandRefused c) :=
  SameConfiguration.modCell s c (fun k => { k with result := .refused }) fun _ => rfl

theorem SameConfiguration.drainFlag (s : State) (c : CellIx) (b : Bool) :
    SameConfiguration s (s.modCell c fun k => { k with drainFlag := b }) :=
  SameConfiguration.modCell s c (fun k => { k with drainFlag := b }) fun _ => rfl

theorem SameConfiguration.recompute (s : State) (c : CellIx) : SameConfiguration s (s.recompute c) :=
  .of_quiet (still_recompute s c).quiet

theorem SameConfiguration.handOver (s : State) (l : Lane) (p : PortIx) : SameConfiguration s (s.handOver l p) := by
  cases l <;> exact .refl s

theorem SameConfiguration.enterDraining (s : State) (p : PortIx) : SameConfiguration s (s.enterDraining p) :=
  (SameConfiguration.of_quiet (still_clearNotices (s.turnAway p) p).quiet :
    SameConfiguration (s.turnAway p) ((s.turnAway p).clearNotices p))

theorem SameConfiguration.closeCell (s : State) (c : CellIx) : SameConfiguration s (s.closeCell c) := by
  have hclosed := SameConfiguration.modCell s c (fun k => { k with state := .closed, level := 0 }) fun _ => rfl
  unfold State.closeCell
  dsimp only
  split
  · exact hclosed
  · exact hclosed.trans (.of_quiet (still_raiseLevel ..).quiet)

theorem SameConfiguration.acceptFrame (s : State) (p : PortIx) (r : Request) : SameConfiguration s (s.acceptFrame p r) := by
  unfold State.acceptFrame State.placeRequest
  split
  · exact .refl s
  · split <;> exact .refl s

theorem State.cell_resetTable (s : State) (c : CellIx) : s.resetTable.cell c = (s.cell c).emptied.recomputed := by
  unfold State.resetTable
  rw [State.chooseJob_cell]
  simp [State.cell]

theorem SameConfiguration.resetTable (s : State) : SameConfiguration s s.resetTable :=
  ⟨rfl, rfl, rfl, rfl, fun d => by rw [State.cell_resetTable]; rfl⟩

/-- Every event that writes no configuration leaves it alone. -/
theorem keepsEvents_configuration (s : State) : KeepsEvents (SameConfiguration s) where
  toKeepsTables := KeepsTables.of_quiet fun hq h => h.trans (.of_quiet hq)
  handedOver h _ := h.trans (.handOver ..)
  answered _ _ _ h := h
  discarded _ h := h
  arrived _ _ h := h.trans (.acceptFrame ..)
  sent _ _ h _ := h
  withdrawn {u l p r} h _ :=
    h.trans ((SameConfiguration.handOver u l p).trans (.enterDraining ((u.handOver l p).answer p r (bare .ok)) p))
  expired {u p} h _ := h.trans (SameConfiguration.enterDraining u p)
  pulseEnded h _ := h
  begun {u j} h _ _ := by
    cases j with
    | portDrain p => exact h
    | cellDrain c => exact h.trans (.drainFlag u c false)
  cellDrained {u c} h _ _ := h.trans (SameConfiguration.closeCell u c)
  portDrained h _ _ := h
  accessed _ _ _ _ h := h
  tableOpened h := h
  tableReset {u} h := h.trans (.resetTable u)
  opened {u c} h _ := h.trans ((SameConfiguration.commandDone u c .opened).trans (.recompute _ c))
  barred {u c} h _ := h.trans (.commandDone u c .barred)
  unbarred {u c} h _ := h.trans (.commandDone u c .opened)
  draining {u c} h _ := h.trans ((SameConfiguration.commandDone u c .draining).trans (.drainFlag (u.commandDone c .draining) c true))
  stopped {u c} h _ := h.trans ((SameConfiguration.commandDone u c .barred).trans (.drainFlag (u.commandDone c .barred) c false))
  refused {u} c h := h.trans (.commandRefused u c)
  watchRestarted h := h
  attention _ _ h := h
  pulseWidth _ _ h := h
  ringSize _ _ h := h
  eventsSet _ _ h := h

/-- What a command may change of the configuration: what its own write names. -/
def ConfigurationKept (c : Instr) (s t : State) : Prop :=
  (c ≠ .tick → c ≠ .pinReset → t.tick = s.tick)
    ∧ ((∀ b, c ≠ .registerWrite b) → c ≠ .pinReset → t.classes = s.classes)
    ∧ ((∀ b, c ≠ .agingWeightWrite b) → c ≠ .pinReset → t.agingWeight = s.agingWeight)
    ∧ ((∀ b, c ≠ .supervisionIntervalWrite b) → c ≠ .pinReset → t.supervision = s.supervision)
    ∧ ((∀ b, c ≠ .capacityWrite b) → c ≠ .pinReset → ∀ d, (t.cell d).capacity = (s.cell d).capacity)
    ∧ ((∀ b, c ≠ .floorWrite b) → c ≠ .pinReset → ∀ d, (t.cell d).floor = (s.cell d).floor)
    ∧ ((∀ b, c ≠ .thresholdWrite b) → c ≠ .pinReset → ∀ d,
        (t.cell d).t1 = (s.cell d).t1 ∧ (t.cell d).t2 = (s.cell d).t2 ∧ (t.cell d).t3 = (s.cell d).t3)
    ∧ ((∀ b, c ≠ .registerWrite b) → c ≠ .pinReset → ∀ d, (t.cell d).hysteresis = (s.cell d).hysteresis)
    ∧ ((∀ b, c ≠ .ownerPortWrite b) → c ≠ .pinReset → ∀ d, (t.cell d).owner = (s.cell d).owner)
    ∧ ((∀ b, c ≠ .depthLimitWrite b) → c ≠ .pinReset → ∀ d, (t.cell d).depthLimit = (s.cell d).depthLimit)

/-- A configuration kept is one of which any command may have kept all. -/
theorem SameConfiguration.kept {s t : State} (h : SameConfiguration s t) (c : Instr) : ConfigurationKept c s t := by
  obtain ⟨h1, h2, h3, h4, h5⟩ := h
  exact ⟨fun _ _ => h1, fun _ _ => h2, fun _ _ => h3, fun _ _ => h4, fun _ _ d => congrArg CellSettings.capacity (h5 d),
    fun _ _ d => congrArg CellSettings.floor (h5 d),
    fun _ _ d => ⟨congrArg CellSettings.t1 (h5 d), congrArg CellSettings.t2 (h5 d), congrArg CellSettings.t3 (h5 d)⟩,
    fun _ _ d => congrArg CellSettings.hysteresis (h5 d), fun _ _ d => congrArg CellSettings.owner (h5 d),
    fun _ _ d => congrArg CellSettings.depthLimit (h5 d)⟩

theorem ConfigurationKept.trans {c : Instr} {s t u : State} (h1 : ConfigurationKept c s t) (h2 : ConfigurationKept c t u) :
    ConfigurationKept c s u := by
  obtain ⟨a1, a2, a3, a4, a5, a6, a7, a8, a9, a10⟩ := h1
  obtain ⟨b1, b2, b3, b4, b5, b6, b7, b8, b9, b10⟩ := h2
  refine ⟨fun h h' => (b1 h h').trans (a1 h h'), fun h h' => (b2 h h').trans (a2 h h'), fun h h' => (b3 h h').trans (a3 h h'),
    fun h h' => (b4 h h').trans (a4 h h'), fun h h' d => (b5 h h' d).trans (a5 h h' d), fun h h' d => (b6 h h' d).trans (a6 h h' d),
    fun h h' d => ?_, fun h h' d => (b8 h h' d).trans (a8 h h' d), fun h h' d => (b9 h h' d).trans (a9 h h' d),
    fun h h' d => (b10 h h' d).trans (a10 h h' d)⟩
  obtain ⟨p1, p2, p3⟩ := a7 h h' d
  obtain ⟨q1, q2, q3⟩ := b7 h h' d
  exact ⟨q1.trans p1, q2.trans p2, q3.trans p3⟩

/-- A change of one field of a cell's configuration, by the command that may make it. -/
theorem ConfigurationKept.modCell {c : Instr} (s : State) (d : CellIx) (f : Cell → Cell)
    (hf : ∀ k, ((∀ b, c ≠ .capacityWrite b) → (f k).capacity = k.capacity) ∧ ((∀ b, c ≠ .floorWrite b) → (f k).floor = k.floor)
      ∧ ((∀ b, c ≠ .thresholdWrite b) → (f k).t1 = k.t1 ∧ (f k).t2 = k.t2 ∧ (f k).t3 = k.t3)
      ∧ ((∀ b, c ≠ .registerWrite b) → (f k).hysteresis = k.hysteresis)
      ∧ ((∀ b, c ≠ .ownerPortWrite b) → (f k).owner = k.owner)
      ∧ ((∀ b, c ≠ .depthLimitWrite b) → (f k).depthLimit = k.depthLimit)) : ConfigurationKept c s (s.modCell d f) := by
  have field {Q : Prop} {α : Type} (g : Cell → α) (hg : Q → ∀ k, g (f k) = g k) (h : Q) (e : CellIx) :
      g ((s.modCell d f).cell e) = g (s.cell e) := by
    rw [State.cell_modCell]
    split
    · next he => rw [he]; exact hg h _
    · rfl
  refine ⟨fun _ _ => rfl, fun _ _ => rfl, fun _ _ => rfl, fun _ _ => rfl, fun h _ => field Cell.capacity (fun h k => (hf k).1 h) h,
    fun h _ => field Cell.floor (fun h k => (hf k).2.1 h) h, fun h _ e => ⟨?_, ?_, ?_⟩,
    fun h _ => field Cell.hysteresis (fun h k => (hf k).2.2.2.1 h) h, fun h _ => field Cell.owner (fun h k => (hf k).2.2.2.2.1 h) h,
    fun h _ => field Cell.depthLimit (fun h k => (hf k).2.2.2.2.2 h) h⟩
  · exact field Cell.t1 (fun h k => ((hf k).2.2.1 h).1) h e
  · exact field Cell.t2 (fun h k => ((hf k).2.2.1 h).2.1) h e
  · exact field Cell.t3 (fun h k => ((hf k).2.2.1 h).2.2) h e

theorem ConfigurationKept.serviceWhen {c : Instr} {s t : State} (h : ConfigurationKept c s t) (b : Bool) (d : CellIx) :
    ConfigurationKept c s (t.serviceWhen b d) := h.trans ((SameConfiguration.of_quiet (still_serviceWhen ..).quiet).kept c)

theorem ConfigurationKept.recompute {c : Instr} {s t : State} (h : ConfigurationKept c s t) (d : CellIx) :
    ConfigurationKept c s (t.recompute d) := h.trans ((SameConfiguration.of_quiet (still_recompute ..).quiet).kept c)

theorem ConfigurationKept.advance {c : Instr} {s t : State} (h : ConfigurationKept c s t) : ConfigurationKept c s t.advance := h

/-- Plain writes reach the hysteresis of a cell and the class table alone. -/
theorem ConfigurationKept.storePart (s : State) (f : Field) (part : Part) (b : Byte) :
    ConfigurationKept (.registerWrite b) s (s.storePart f part b) := by
  have hclass (k : ClassIx) (g : ServiceClass → ServiceClass) : ConfigurationKept (.registerWrite b) s (s.modClass k g) :=
    ⟨fun _ _ => rfl, fun h => absurd rfl (h b), fun _ _ => rfl, fun _ _ => rfl, fun _ _ _ => rfl, fun _ _ _ => rfl,
      fun _ _ _ => ⟨rfl, rfl, rfl⟩, fun h => absurd rfl (h b), fun _ _ _ => rfl, fun _ _ _ => rfl⟩
  have hsame := (SameConfiguration.refl s).kept (.registerWrite b)
  cases part with
  | whole =>
    simp only [State.storePart, State.storeByte]
    split
    · exact .modCell s _ _ fun k => ⟨fun _ => rfl, fun _ => rfl, fun _ => ⟨rfl, rfl, rfl⟩, fun h => absurd rfl (h b), fun _ => rfl,
        fun _ => rfl⟩
    · exact hclass _ _
    · exact hclass _ _
    · exact hclass _ _
    · exact hclass _ _
    · exact hsame
  | high =>
    simp only [State.storePart]
    split <;> exact hsame
  | low =>
    simp only [State.storePart, State.storeHalf]
    split
    · exact hclass _ _
    · exact hclass _ _
    · exact hclass _ _
    · exact hsame

theorem State.cell_reweigh_configuration (s : State) (w : Nat) (d : CellIx) :
    ((s.reweigh w).cell d).configuration = (s.cell d).configuration := by
  simp [State.reweigh, State.cell, State.reorderQueue, Cell.configuration, Cell.settings]

theorem execTick_kept (s : State) : Yields (ConfigurationKept .tick s) (execTick s) := by
  have h := ((keepsEvents_configuration s).taken (.refl s) (openOrder s.freeDraws s.due) 20).kept .tick
  obtain ⟨-, h⟩ := h
  exact Yields.next ⟨fun hc => absurd rfl hc, h⟩

theorem execRegisterWrite_kept (b : Byte) (s : State) :
    Yields (ConfigurationKept (.registerWrite b) s) (execRegisterWrite b s) := by
  have hsame := (SameConfiguration.refl s).kept (.registerWrite b)
  unfold execRegisterWrite
  split
  · split
    · split
      · exact Yields.next hsame
      · exact Yields.next (ConfigurationKept.storePart s _ _ b)
    · exact Yields.next hsame
  · exact Yields.next hsame

theorem execCapacityWrite_kept (b : Byte) (s : State) :
    Yields (ConfigurationKept (.capacityWrite b) s) (execCapacityWrite b s) := by
  have hsame := (SameConfiguration.refl s).kept (.capacityWrite b)
  have hwritten (c : CellIx) (v : Nat) : ConfigurationKept (.capacityWrite b) s (s.modCell c fun k => { k with capacity := v }) :=
    .modCell s c _ fun k => ⟨fun h => absurd rfl (h b), fun _ => rfl, fun _ => ⟨rfl, rfl, rfl⟩, fun _ => rfl, fun _ => rfl,
      fun _ => rfl⟩
  unfold execCapacityWrite
  split
  · refine Yields.next (ConfigurationKept.advance ?_)
    unfold State.writeCapacity
    dsimp only
    split
    · exact hsame
    · exact ((hwritten _ _).recompute _).serviceWhen _ _
  · exact Yields.next hsame

theorem execFloorWrite_kept (b : Byte) (s : State) : Yields (ConfigurationKept (.floorWrite b) s) (execFloorWrite b s) := by
  have hsame := (SameConfiguration.refl s).kept (.floorWrite b)
  have hwritten (c : CellIx) (v : Nat) : ConfigurationKept (.floorWrite b) s (s.modCell c fun k => { k with floor := v }) :=
    .modCell s c _ fun k => ⟨fun _ => rfl, fun h => absurd rfl (h b), fun _ => ⟨rfl, rfl, rfl⟩, fun _ => rfl, fun _ => rfl,
      fun _ => rfl⟩
  unfold execFloorWrite
  split
  · refine Yields.next (ConfigurationKept.advance ?_)
    unfold State.writeFloor
    exact (hwritten _ _).serviceWhen _ _
  · exact Yields.next hsame

/-- A write of a threshold, where the value is not the one held. -/
theorem ConfigurationKept.threshold (b : Byte) (s : State) (c : CellIx) (f : Cell → Cell) (hf : ∀ k, (f k).capacity = k.capacity ∧ (f k).floor = k.floor
      ∧ (f k).hysteresis = k.hysteresis ∧ (f k).owner = k.owner ∧ (f k).depthLimit = k.depthLimit) (same : Prop)
    [Decidable same] : ConfigurationKept (.thresholdWrite b) s (if same then s else (s.modCell c f).recompute c) := by
  split
  · exact (SameConfiguration.refl s).kept _
  · refine (ConfigurationKept.modCell s c f fun k => ?_).recompute c
    obtain ⟨hcap, hfloor, hhyst, howner, hdepth⟩ := hf k
    exact ⟨fun _ => hcap, fun _ => hfloor, fun h => absurd rfl (h b), fun _ => hhyst, fun _ => howner, fun _ => hdepth⟩

theorem execThresholdWrite_kept (b : Byte) (s : State) :
    Yields (ConfigurationKept (.thresholdWrite b) s) (execThresholdWrite b s) := by
  unfold execThresholdWrite
  split
  · refine Yields.next (ConfigurationKept.advance ?_)
    unfold State.writeThreshold1
    exact .threshold b s _ _ (by intro k; exact ⟨rfl, rfl, rfl, rfl, rfl⟩) _
  · refine Yields.next (ConfigurationKept.advance ?_)
    unfold State.writeThreshold2
    exact .threshold b s _ _ (by intro k; exact ⟨rfl, rfl, rfl, rfl, rfl⟩) _
  · refine Yields.next (ConfigurationKept.advance ?_)
    unfold State.writeThreshold3
    exact .threshold b s _ _ (by intro k; exact ⟨rfl, rfl, rfl, rfl, rfl⟩) _
  · exact Yields.next ((SameConfiguration.refl s).kept _)

theorem execOwnerPortWrite_kept (b : Byte) (s : State) :
    Yields (ConfigurationKept (.ownerPortWrite b) s) (execOwnerPortWrite b s) := by
  have hsame := (SameConfiguration.refl s).kept (.ownerPortWrite b)
  have hwritten (c : CellIx) (p : PortIx) : ConfigurationKept (.ownerPortWrite b) s (s.modCell c fun k => { k with owner := p }) :=
    .modCell s c _ fun k => ⟨fun _ => rfl, fun _ => rfl, fun _ => ⟨rfl, rfl, rfl⟩, fun _ => rfl, fun h => absurd rfl (h b),
      fun _ => rfl⟩
  unfold execOwnerPortWrite
  split
  · refine Yields.next (ConfigurationKept.advance ?_)
    unfold State.writeOwner
    split
    · exact hwritten _ _
    · exact hsame
  · exact Yields.next hsame

theorem execDepthLimitWrite_kept (b : Byte) (s : State) :
    Yields (ConfigurationKept (.depthLimitWrite b) s) (execDepthLimitWrite b s) := by
  have hsame := (SameConfiguration.refl s).kept (.depthLimitWrite b)
  unfold execDepthLimitWrite
  split
  · have hlimit (c : CellIx) : ConfigurationKept (.depthLimitWrite b) s (s.modCell c fun k => { k with depthLimit := min 64 b.toNat }) :=
      .modCell s c _ fun k => ⟨fun _ => rfl, fun _ => rfl, fun _ => ⟨rfl, rfl, rfl⟩, fun _ => rfl, fun _ => rfl,
        fun h => absurd rfl (h b)⟩
    refine Yields.next (ConfigurationKept.advance ?_)
    unfold State.writeDepthLimit
    exact ((hlimit _).trans ((SameConfiguration.of_quiet (still_cutQueue ..).quiet).kept _)).serviceWhen _ _
  · exact Yields.next hsame

theorem execAgingWeightWrite_kept (b : Byte) (s : State) :
    Yields (ConfigurationKept (.agingWeightWrite b) s) (execAgingWeightWrite b s) := by
  have hsame := (SameConfiguration.refl s).kept (.agingWeightWrite b)
  unfold execAgingWeightWrite
  split
  · refine Yields.next (ConfigurationKept.advance ?_)
    unfold State.writeAgingWeight
    split
    · exact hsame
    · have hcells : SameConfiguration s { s.reweigh (min 4095 (s.delivered b).toNat) with agingWeight := s.agingWeight } :=
        ⟨rfl, rfl, rfl, rfl, s.cell_reweigh_configuration _⟩
      obtain ⟨h1, h2, -, h4⟩ := hcells.kept (.agingWeightWrite b)
      exact ⟨h1, h2, fun h => absurd rfl (h b), h4⟩
  · exact Yields.next hsame

theorem execSupervisionIntervalWrite_kept (b : Byte) (s : State) :
    Yields (ConfigurationKept (.supervisionIntervalWrite b) s) (execSupervisionIntervalWrite b s) := by
  have hsame := (SameConfiguration.refl s).kept (.supervisionIntervalWrite b)
  unfold execSupervisionIntervalWrite
  split
  · refine Yields.next (ConfigurationKept.advance ?_)
    have hset : ConfigurationKept (.supervisionIntervalWrite b) s { s with supervision := min 5000 (s.delivered b).toNat } :=
      ⟨fun _ _ => rfl, fun _ _ => rfl, fun _ _ => rfl, fun h => absurd rfl (h b), fun _ _ _ => rfl, fun _ _ _ => rfl,
        fun _ _ _ => ⟨rfl, rfl, rfl⟩, fun _ _ _ => rfl, fun _ _ _ => rfl, fun _ _ _ => rfl⟩
    unfold State.writeSupervision
    dsimp only
    split
    · exact hsame
    · split
      · exact hset
      · split
        · exact hset
        · exact hset.trans (((keepsEvents_configuration _).expirePorts (.refl _)).kept _)
  · exact Yields.next hsame

/-- Every command changes at most the configuration that its own write names. -/
theorem exec_configurationKept (c : Instr) (s : State) : Yields (ConfigurationKept c s) (exec c s) := by
  cases hc : Instr.configures c with
  | false => exact fun t ht => ((keepsEvents_configuration s).exec (.refl s) c hc t ht).kept c
  | true =>
    cases c with
    | pinReset =>
      exact Yields.next ⟨fun _ h => absurd rfl h, fun _ h => absurd rfl h, fun _ h => absurd rfl h, fun _ h => absurd rfl h,
        fun _ h => absurd rfl h, fun _ h => absurd rfl h, fun _ h => absurd rfl h, fun _ h => absurd rfl h,
        fun _ h => absurd rfl h, fun _ h => absurd rfl h⟩
    | tick => exact execTick_kept s
    | registerWrite b => exact execRegisterWrite_kept b s
    | capacityWrite b => exact execCapacityWrite_kept b s
    | floorWrite b => exact execFloorWrite_kept b s
    | thresholdWrite b => exact execThresholdWrite_kept b s
    | ownerPortWrite b => exact execOwnerPortWrite_kept b s
    | depthLimitWrite b => exact execDepthLimitWrite_kept b s
    | agingWeightWrite b => exact execAgingWeightWrite_kept b s
    | supervisionIntervalWrite b => exact execSupervisionIntervalWrite_kept b s
    | _ => cases hc

/-- Settles O3, by what each command may change of the configuration. -/
theorem configurationChangesByWritesAlone : Obligations.ConfigurationChangesByWritesAlone :=
  fun c s t h => exec_configurationKept c s t h

end Sys2Proof.Machine
end

section
/-! Proofs of the statements about congestion levels (chapter 7): the recompute of one cell's entry, and that every step keeps
each cell's occupancy and level those of its present figures. -/

namespace Sys2Proof.Machine

/-! ### The steps of a recompute -/

/-- The thresholds in use rise with the level (R25). -/
theorem Cell.thresholds_rise (k : Cell) : k.t1 ≤ k.t2InUse ∧ k.t2InUse ≤ k.t3InUse :=
  ⟨Nat.le_max_right .., Nat.le_max_right ..⟩

/-- The largest level reached is the number of thresholds in use that the occupancy has reached (R129, step 1). -/
theorem Cell.le_reached_iff (k : Cell) (o : Nat) {j : Nat} (h1 : 1 ≤ j) (h3 : j ≤ 3) : j ≤ k.reached o ↔ k.threshold j ≤ o := by
  obtain ⟨h12, h23⟩ := k.thresholds_rise
  have hj : j = 1 ∨ j = 2 ∨ j = 3 := by omega
  rcases hj with rfl | rfl | rfl
  all_goals
    simp only [Cell.reached, Cell.threshold]
    split_ifs <;> omega

theorem Cell.reached_le (k : Cell) (o : Nat) : k.reached o ≤ 3 := by
  unfold Cell.reached
  split_ifs <;> omega

/-- The lowering step: every level left was left below its bar, and the level kept stands at or above its own (R129, step 2). -/
theorem Cell.lowered_spec (k : Cell) (o level : Nat) :
    k.lowered o level ≤ level ∧ (∀ j, k.lowered o level < j → j ≤ level → o < k.bar j)
      ∧ (0 < k.lowered o level → k.bar (k.lowered o level) ≤ o) := by
  induction level with
  | zero => exact ⟨le_rfl, fun j h0 hj => absurd h0 (by simpa [Cell.lowered] using hj), fun h0 => absurd h0 (by simp [Cell.lowered])⟩
  | succ n ih =>
    obtain ⟨hle, hleft, hkept⟩ := ih
    unfold Cell.lowered
    split
    · next hbar =>
      refine ⟨by omega, fun j hlt hj => ?_, hkept⟩
      rcases Nat.lt_or_eq_of_le hj with hj | rfl
      · exact hleft j hlt (by omega)
      · exact hbar
    · next hbar => exact ⟨le_rfl, fun j hlt hj => absurd hj (by omega), fun _ => by omega⟩

/-- A bar lies no higher than its threshold. -/
theorem Cell.bar_le (k : Cell) (j : Nat) : k.bar j ≤ k.threshold j := Nat.sub_le ..

/-- What a level becomes (R129, R130): at most 3; risen only to a threshold reached, and whenever one above is reached; fallen
only past bars above the occupancy; below the next threshold and at or above its own bar. -/
theorem Cell.nextLevel_spec (k : Cell) (o : Nat) (h : k.level ≤ 3) :
    k.nextLevel o ≤ 3
    ∧ (k.level < k.nextLevel o → k.threshold (k.nextLevel o) ≤ o)
    ∧ ((∃ j, k.level < j ∧ j ≤ 3 ∧ k.threshold j ≤ o) → k.level < k.nextLevel o)
    ∧ (∀ j, k.nextLevel o < j → j ≤ k.level → o < k.bar j)
    ∧ (k.nextLevel o < 3 → o < k.threshold (k.nextLevel o + 1))
    ∧ (0 < k.nextLevel o → k.bar (k.nextLevel o) ≤ o) := by
  have hreached := k.reached_le o
  have hnext (m : Nat) (hm : k.reached o ≤ m) (h3 : m < 3) : o < k.threshold (m + 1) := by
    have := k.le_reached_iff o (j := m + 1) (by omega) (by omega)
    omega
  unfold Cell.nextLevel
  split
  · next hrise =>
    have hat := (k.le_reached_iff o (by omega) hreached).1 le_rfl
    exact ⟨hreached, fun _ => hat, fun _ => hrise, fun j h1 h2 => absurd h2 (by omega), hnext _ le_rfl,
      fun _ => (k.bar_le _).trans hat⟩
  · next hstay =>
    obtain ⟨hle, hleft, hkept⟩ := k.lowered_spec o k.level
    refine ⟨by omega, fun hlt => absurd hle (by omega), fun ⟨j, hlt, hj3, hj⟩ => ?_, hleft, fun h3 => ?_, hkept⟩
    · have := (k.le_reached_iff o (by omega) hj3).2 hj
      omega
    · rcases Nat.lt_or_eq_of_le hle with hlt | heq
      · exact (hleft _ (Nat.lt_succ_self _) hlt).trans_le (k.bar_le _)
      · rw [heq] at h3 ⊢
        exact hnext _ (by omega) h3

/-- The occupancy in the terms of the statements (R127). -/
theorem occupancyOf_eq (capacity use : Nat) :
    occupancyOf capacity use = if capacity ≤ use then 1000 else use * 1000 / capacity := by
  unfold occupancyOf
  by_cases h0 : capacity = 0
  · simp [h0]
  · simp [h0]

/-- Settles O42, by what the next level is. -/
theorem recomputeFollowsOccupancyAndHysteresis : Obligations.RecomputeFollowsOccupancyAndHysteresis := by
  rintro k n o t hlevel rfl ho rfl
  have hocc : k.recomputed.occupancy = o := ho ▸ occupancyOf_eq ..
  refine ⟨hocc, rfl, fun hc => ?_, fun hc => ?_⟩
  · simp [Cell.recomputed, hc]
  · have hnext : k.recomputed.level = k.nextLevel o := by
      rw [← hocc]
      simp [Cell.recomputed, hc]
    rw [hnext]
    exact k.nextLevel_spec o hlevel

/-! ### Cells whose level awaits a recompute -/

/-- The part of a cell's level that a change of its figures leaves: in 0 to 3, and 0 while CLOSED. -/
def Cell.levelSound (k : Cell) : Prop := k.level ≤ 3 ∧ (k.state = .closed → k.level = 0)

theorem Cell.levelFollows.sound {k : Cell} (h : k.levelFollows) : k.levelSound := ⟨h.2.1, h.2.2.1⟩

/-- A recompute makes a sound level follow the figures (R128 to R131). -/
theorem Cell.levelSound.recomputed {k : Cell} (h : k.levelSound) : k.recomputed.levelFollows := by
  obtain ⟨h3, hclosed⟩ := h
  obtain ⟨hle, -, -, -, hbelow, -⟩ := k.nextLevel_spec (occupancyOf k.capacity k.use) h3
  by_cases hc : k.state = .closed
  · have hlevel : k.recomputed.level = k.level := by simp [Cell.recomputed, hc]
    exact ⟨rfl, by rwa [hlevel], fun _ => hlevel.trans (hclosed hc), fun hn => absurd hc hn⟩
  · have hlevel : k.recomputed.level = k.nextLevel (occupancyOf k.capacity k.use) := by simp [Cell.recomputed, hc]
    unfold Cell.levelFollows
    rw [hlevel]
    exact ⟨rfl, hle, fun hc' => absurd hc' hc, fun _ => hbelow⟩

/-- Every cell's level is sound, and outside a list it follows the figures. -/
def LevelsBut (cs : List CellIx) (s : State) : Prop :=
  ∀ d, (s.cell d).levelSound ∧ (d ∉ cs → (s.cell d).levelFollows)

/-- Every cell's occupancy and level are those of its figures. -/
def LevelsFollow (s : State) : Prop := ∀ c, (s.cell c).levelFollows

theorem LevelsFollow.but {s : State} (h : LevelsFollow s) (cs : List CellIx) : LevelsBut cs s :=
  fun d => ⟨(h d).sound, fun _ => h d⟩

theorem LevelsBut.follow {s : State} (h : LevelsBut [] s) : LevelsFollow s := fun d => (h d).2 (by simp)

theorem LevelsBut.congr {cs : List CellIx} {s t : State} (h : LevelsBut cs s) (ht : t.cells = s.cells) : LevelsBut cs t := by
  intro d
  have hd : t.cell d = s.cell d := by rw [State.cell, ht]; rfl
  rw [hd]
  exact h d

theorem LevelsFollow.congr {s t : State} (h : LevelsFollow s) (ht : t.cells = s.cells) : LevelsFollow t :=
  ((h.but []).congr ht).follow

/-- A cell in the list may have its figures changed, its level and state kept. -/
theorem LevelsBut.modCell {cs : List CellIx} {s : State} (h : LevelsBut cs s) {c : CellIx} (hc : c ∈ cs) (f : Cell → Cell)
    (hf : (f (s.cell c)).level = (s.cell c).level ∧ (f (s.cell c)).state = (s.cell c).state) : LevelsBut cs (s.modCell c f) := by
  intro d
  rw [State.cell_modCell]
  split
  · next hd =>
    obtain ⟨hlevel, hstate⟩ := hf
    refine ⟨?_, fun hn => absurd hc (hd ▸ hn)⟩
    unfold Cell.levelSound
    rw [hlevel, hstate]
    exact (h c).1
  · exact h d

/-- A recompute takes a cell off the list. -/
theorem LevelsBut.recompute {c : CellIx} {cs : List CellIx} {s : State} (h : LevelsBut (c :: cs) s) :
    LevelsBut cs (s.recompute c) := by
  intro d
  by_cases hd : d = c
  · subst hd
    have hfollows : ((s.recompute d).cell d).levelFollows := by
      rcases s.recompute_cell d with he | he <;> rw [he] <;> exact (h d).1.recomputed
    exact ⟨hfollows.sound, fun _ => hfollows⟩
  · rw [s.recompute_cell_ne c d hd]
    exact ⟨(h d).1, fun hn => (h d).2 (by simp [hd, hn])⟩

/-- One change of a cell that keeps its level and state, with its recompute. -/
theorem LevelsFollow.recount {s : State} (h : LevelsFollow s) (c : CellIx) (f : Cell → Cell)
    (hf : (f (s.cell c)).level = (s.cell c).level ∧ (f (s.cell c)).state = (s.cell c).state) :
    LevelsFollow ((s.modCell c f).recompute c) :=
  ((h.but [c]).modCell (by simp) f hf).recompute.follow

/-- A change of one cell that leaves it following its figures. -/
theorem LevelsFollow.modCell {s : State} (h : LevelsFollow s) (c : CellIx) (f : Cell → Cell)
    (hf : (s.cell c).levelFollows → (f (s.cell c)).levelFollows) : LevelsFollow (s.modCell c f) := by
  intro d
  rw [State.cell_modCell]
  split
  · exact hf (h c)
  · exact h d

/-! ### Changes of pending LEVEL entries alone -/

/-- The cells are as they were but for pending LEVEL entries. -/
def CellsButPending (s t : State) : Prop := ∀ d, ∃ b, t.cell d = { s.cell d with pendingLevel := b }

theorem CellsButPending.of_cells {s t : State} (h : t.cells = s.cells) : CellsButPending s t :=
  fun d => ⟨(s.cell d).pendingLevel, by rw [State.cell, h]; rfl⟩

theorem CellsButPending.trans {s t u : State} (h1 : CellsButPending s t) (h2 : CellsButPending t u) : CellsButPending s u := by
  intro d
  obtain ⟨b, hb⟩ := h1 d
  obtain ⟨b', hb'⟩ := h2 d
  exact ⟨b', by rw [hb', hb]⟩

theorem cellsButPending_raiseLevel (s : State) (c : CellIx) : CellsButPending s (s.raiseLevel c) := by
  intro d
  rcases s.raiseLevel_cell c d with h | ⟨-, h⟩
  · exact ⟨(s.cell d).pendingLevel, h⟩
  · exact ⟨true, h⟩

theorem cellsButPending_dropEntry (s : State) (e : BacklogEntry) : CellsButPending s (s.dropEntry e) := by
  obtain ⟨-, hcells, -⟩ := State.dropEntry_left s e
  intro d
  rw [hcells d]
  split
  · exact ⟨false, rfl⟩
  · exact ⟨(s.cell d).pendingLevel, rfl⟩

theorem cellsButPending_dropEntries (es : List BacklogEntry) (s : State) : CellsButPending s (s.dropEntries es) := by
  unfold State.dropEntries
  induction es generalizing s with
  | nil => exact .of_cells rfl
  | cons e rest ih => exact (cellsButPending_dropEntry s e).trans (ih _)

theorem cellsButPending_clearNotices (s : State) (p : PortIx) : CellsButPending s (s.clearNotices p) :=
  cellsButPending_dropEntries _ s

theorem cellsButPending_refillRing (p : PortIx) (fuel : Nat) (s : State) : CellsButPending s (s.refillRing p fuel) := by
  induction fuel generalizing s with
  | zero => exact .of_cells rfl
  | succ n ih =>
    unfold State.refillRing
    split
    · exact .of_cells rfl
    · split
      · next e rest _ _ =>
        have hdrop := cellsButPending_dropEntry
          (s.modPort p fun q => { q with backlog := rest, ring := q.ring ++ (s.entryNotice e).toList }) e
        exact hdrop.trans (ih _)
      · exact .of_cells rfl

theorem cellsButPending_fetchNotices (s : State) (p : PortIx) (k : Nat) : CellsButPending s (s.fetchNotices p k).2 :=
  cellsButPending_refillRing p _ (s.modPort p fun q => { q with ring := q.ring.drop k })

theorem cellsButPending_enterDraining (s : State) (p : PortIx) : CellsButPending s (s.enterDraining p) :=
  cellsButPending_clearNotices (s.turnAway p) p

theorem LevelsFollow.butPending {s t : State} (h : LevelsFollow s) (ht : CellsButPending s t) : LevelsFollow t := by
  intro d
  obtain ⟨b, hb⟩ := ht d
  rw [hb]
  exact h d

/-! ### The shared operations -/

theorem LevelsBut.joinRank {cs : List CellIx} {s : State} (h : LevelsBut cs s) {c : CellIx} (hc : c ∈ cs) (i : Nat)
    (ses : Session) : LevelsBut cs (s.joinRank c i ses) := by
  unfold State.joinRank
  split
  · exact h.modCell hc _ ⟨rfl, rfl⟩
  · exact h

theorem LevelsBut.countSetup {cs : List CellIx} {s : State} (h : LevelsBut cs s) {c : CellIx} (hc : c ∈ cs) (i : Nat)
    (ses : Session) : LevelsBut cs (s.countSetup c i ses) := by
  have hadd : LevelsBut cs (s.addA c ses.demand) := h.modCell hc _ ⟨rfl, rfl⟩
  exact hadd.joinRank hc i ses

theorem LevelsBut.takeRecord {cs : List CellIx} {s : State} (h : LevelsBut cs s) (ses : Session) (st : Stage) :
    LevelsBut cs (s.takeRecord ses st) := by
  refine h.congr ?_
  unfold State.takeRecord
  split
  · rfl
  · dsimp only
    split <;> rfl

theorem LevelsBut.takeVictims {cs : List CellIx} {s : State} (h : LevelsBut cs s) {c : CellIx} (hc : c ∈ cs) (rq : Handle)
    (vs : List Nat) : LevelsBut cs (s.takeVictims rq c vs) := by
  unfold State.takeVictims
  induction vs generalizing s with
  | nil => exact h
  | cons i rest ih =>
    refine ih ?_
    unfold State.takeVictim
    split
    · next ses st _ =>
      have hleft : LevelsBut cs (s.leaveRank c i) := h.modCell hc _ ⟨rfl, rfl⟩
      have hsub : LevelsBut cs ((s.leaveRank c i).subA c ses.demand) := hleft.modCell hc _ ⟨rfl, rfl⟩
      have hadd : LevelsBut cs (((s.leaveRank c i).subA c ses.demand).addC c ses.demand) := hsub.modCell hc _ ⟨rfl, rfl⟩
      exact hadd.congr (State.raiseSession_cells ..)
    · exact h

theorem LevelsBut.passUnits {cs : List CellIx} {s : State} (h : LevelsBut cs s) {c : CellIx} (hc : c ∈ cs) (victim : Handle)
    (v : Nat) (b : Handle) : LevelsBut cs (s.passUnits c victim v b) := by
  unfold State.passUnits
  split
  · split
    · next ses victims need reserved collected _ _ =>
      dsimp only
      have hadd : LevelsBut cs (s.addR c (min v (need - collected))) := h.modCell hc _ ⟨rfl, rfl⟩
      have hset (st : Stage) : LevelsBut cs ((s.addR c (min v (need - collected))).setLive b.index ses st) := hadd.congr rfl
      split
      · have hsub (st : Stage) (d : Nat) :
            LevelsBut cs (((s.addR c (min v (need - collected))).setLive b.index ses st).subR c d) :=
          (hset st).modCell hc _ ⟨rfl, rfl⟩
        unfold State.promote
        refine LevelsBut.congr (LevelsBut.countSetup ?_ hc _ _) (State.raiseSession_cells ..)
        refine LevelsBut.congr ((hsub _ _).congr (State.unbindAll_cells ..)) rfl
      · exact hset _
    · exact h
  · exact h

theorem LevelsFollow.victimExit {s : State} (h : LevelsFollow s) (i : Nat) (ses : Session) (b : Option Handle) :
    LevelsFollow (s.victimExit i ses b) := by
  have hsub : LevelsBut [ses.key.cell] (s.subC ses.key.cell ses.demand) := (h.but _).modCell (by simp) _ ⟨rfl, rfl⟩
  unfold State.victimExit
  cases b with
  | none => exact hsub.recompute.follow
  | some b => exact (hsub.passUnits (by simp) _ _ _).recompute.follow

theorem LevelsFollow.withdrawHeld {s : State} (h : LevelsFollow s) (ses : Session) (vs : List Handle) (reserved collected : Nat) :
    LevelsFollow (s.withdrawHeld ses vs reserved collected) := by
  unfold State.withdrawHeld
  dsimp only
  split
  · next h0 =>
    refine LevelsFollow.congr (s := s.subR ses.key.cell (reserved + collected)) ?_ (State.unbindAll_cells ..)
    rw [h0]
    exact h.modCell _ _ fun hk => hk
  · have hsub : LevelsBut [ses.key.cell] (s.subR ses.key.cell (reserved + collected)) :=
      (h.but _).modCell (by simp) _ ⟨rfl, rfl⟩
    exact (hsub.congr (State.unbindAll_cells ..)).recompute.follow

theorem LevelsFollow.giveUp {s : State} (h : LevelsFollow s) (i : Nat) (ses : Session) (st : Stage) :
    LevelsFollow (s.giveUp i ses st) := by
  cases st with
  | queued => exact h
  | held vs need reserved collected => exact h.withdrawHeld ses vs reserved collected
  | setup | active => exact h.recount _ _ ⟨rfl, rfl⟩
  | ceding stamp b deadline => exact h.victimExit i ses b

theorem LevelsFollow.raiseSession {s : State} (h : LevelsFollow s) (i : Nat) (kind : SessionNotice) (cause : Cause) :
    LevelsFollow (s.raiseSession i kind cause) := h.congr (State.raiseSession_cells ..)

theorem LevelsFollow.retire {s : State} (h : LevelsFollow s) (i : Nat) : LevelsFollow (s.retire i) := by
  cases hl : s.liveAt i with
  | none => simpa [State.retire, hl] using h
  | some x =>
    obtain ⟨-, -, hcell, hkept, -, -⟩ := State.retire_retiredFrom s i x.1 x.2 hl
    intro d
    by_cases hd : d = x.1.key.cell
    · rw [hd, hcell]
      exact h _
    · rw [hkept d (by simpa using hd)]
      exact h d

theorem LevelsFollow.serveHead {s : State} (h : LevelsFollow s) (c : CellIx) (i : Nat) (ses : Session) :
    LevelsFollow (s.serveHead c i ses) := by
  have hleft : LevelsBut [c] (s.leaveQueue c i) := (h.but _).modCell (by simp) _ ⟨rfl, rfl⟩
  have hset : LevelsBut [c] ((s.leaveQueue c i).setLive i ses (setupStage s.tick ses)) := hleft.congr rfl
  exact ((hset.countSetup (by simp) i ses).congr (State.raiseSession_cells ..)).recompute.follow

theorem LevelsFollow.holdHead {s : State} (h : LevelsFollow s) (c : CellIx) (i : Nat) (ses : Session) (vs : List Nat) :
    LevelsFollow (s.holdHead c i ses vs) := by
  have hleft : LevelsBut [c] (s.leaveQueue c i) := (h.but _).modCell (by simp) _ ⟨rfl, rfl⟩
  have hset : LevelsBut [c] (((s.leaveQueue c i).takeVictims (s.handleOf i) c vs).setLive i ses (s.heldStage c ses vs)) :=
    (hleft.takeVictims (by simp) _ vs).congr rfl
  have hadd : LevelsBut [c] ((((s.leaveQueue c i).takeVictims (s.handleOf i) c vs).setLive i ses (s.heldStage c ses vs)).addR c
      ((s.cell c).headroom ses.emergency)) := hset.modCell (by simp) _ ⟨rfl, rfl⟩
  exact hadd.recompute.follow

theorem LevelsFollow.admitPlain {s : State} (h : LevelsFollow s) (ses : Session) : LevelsFollow (s.admitPlain ses) :=
  (((h.but [ses.key.cell]).takeRecord ses _).countSetup (by simp) _ _).recompute.follow

theorem LevelsFollow.admitHeld {s : State} (h : LevelsFollow s) (ses : Session) (vs : List Nat) :
    LevelsFollow (s.admitHeld ses vs) := by
  have hvictims : LevelsBut [ses.key.cell] (s.takeVictims (s.handleOf s.nextFree) ses.key.cell vs) :=
    (h.but _).takeVictims (by simp) _ vs
  have htaken := hvictims.takeRecord ses (s.heldStage ses.key.cell ses vs)
  have hadd : LevelsBut [ses.key.cell] (((s.takeVictims (s.handleOf s.nextFree) ses.key.cell vs).takeRecord ses
      (s.heldStage ses.key.cell ses vs)).addR ses.key.cell ((s.cell ses.key.cell).headroom ses.emergency)) :=
    htaken.modCell (by simp) _ ⟨rfl, rfl⟩
  exact hadd.recompute.follow

theorem LevelsFollow.enqueue {s : State} (h : LevelsFollow s) (ses : Session) : LevelsFollow (s.enqueue ses) :=
  LevelsFollow.modCell ((h.but []).takeRecord ses _).follow _ _ fun hk => hk

/-- A Move recomputes both cells whose figures it changes (R109). -/
theorem LevelsFollow.relocate {s : State} (h : LevelsFollow s) (i : Nat) (ses : Session) (st : Stage) (target : CellIx) :
    LevelsFollow (s.relocate i ses st target) := by
  have hsub : LevelsBut [ses.key.cell, target] (s.subA ses.key.cell ses.demand) := (h.but _).modCell (by simp) _ ⟨rfl, rfl⟩
  have hleft : LevelsBut [ses.key.cell, target] ((s.subA ses.key.cell ses.demand).leaveRank ses.key.cell i) :=
    hsub.modCell (by simp) _ ⟨rfl, rfl⟩
  have hset : LevelsBut [ses.key.cell, target] ((((((s.subA ses.key.cell ses.demand).leaveRank ses.key.cell i).dropKey
      ses.key).setLive i (s.movedSession ses target) (st.restamped s.tick)).addKey (s.movedSession ses target).key
        (s.handleOf i))) := hleft.congr rfl
  exact (hset.countSetup (by simp) _ _).recompute.recompute.follow

theorem LevelsFollow.closeCell {s : State} (h : LevelsFollow s) (c : CellIx) : LevelsFollow (s.closeCell c) := by
  have hclosed : LevelsFollow (s.modCell c fun k => { k with state := .closed, level := 0 }) :=
    h.modCell c _ fun hk => ⟨hk.1, Nat.zero_le 3, fun _ => rfl, fun hn => absurd rfl hn⟩
  unfold State.closeCell
  dsimp only
  split
  · exact hclosed
  · exact hclosed.butPending (cellsButPending_raiseLevel _ _)

/-- A cell that is not CLOSED before or after a cell command keeps its level (R27, R131). -/
theorem LevelsFollow.commandDone {s : State} (h : LevelsFollow s) (c : CellIx) (st : CellState) (hs : (s.cell c).state ≠ .closed)
    (ht : st ≠ .closed) : LevelsFollow (s.commandDone c st) := by
  unfold State.commandDone
  refine h.modCell c _ fun hk => ?_
  obtain ⟨hocc, hle, -, hbelow⟩ := hk
  exact ⟨hocc, hle, fun hc => absurd hc ht, fun _ => hbelow hs⟩

theorem LevelsFollow.storePart {s : State} (h : LevelsFollow s) (f : Field) (part : Part) (b : Byte) :
    LevelsFollow (s.storePart f part b) := by
  cases part with
  | whole =>
    simp only [State.storePart, State.storeByte]
    split
    · exact h.modCell _ _ fun hk => hk
    all_goals exact h.congr rfl
  | high =>
    simp only [State.storePart]
    split <;> exact h.congr rfl
  | low =>
    simp only [State.storePart, State.storeHalf]
    split <;> exact h.congr rfl

theorem LevelsFollow.acceptFrame {s : State} (h : LevelsFollow s) (p : PortIx) (r : Request) : LevelsFollow (s.acceptFrame p r) := by
  refine h.congr ?_
  unfold State.acceptFrame State.placeRequest
  split
  · rfl
  · split <;> rfl

theorem keepsTables_levels : KeepsTables LevelsFollow where
  raised i kind cause h := h.raiseSession i kind cause
  retired h _ ht := by
    rcases ht with rfl | ⟨kind, cause, rfl⟩
    · exact (h.giveUp _ _ _).retire _
    · exact ((h.giveUp _ _ _).raiseSession _ _ _).retire _
  displaced h _ := (h.raiseSession _ _ _).retire _
  served h _ _ := h.serveHead _ _ _
  heldHead h _ _ _ _ := h.holdHead _ _ _ _
  admitted h _ := h.admitPlain _
  preempted h _ _ _ := h.admitHeld _ _
  enqueued h _ := h.enqueue _
  confirmed h _ := h.congr rfl
  tagged _ h _ := h.congr rfl
  decreased {s i d ses st} h _ _ _ _ := LevelsFollow.recount (s := s.setLive i { ses with demand := d } st) (h.congr rfl)
    ses.key.cell (fun k => { k with countA := k.countA - (ses.demand - d) }) ⟨rfl, rfl⟩
  increased {s i d ses st} h _ _ _ := LevelsFollow.recount (s := s.setLive i { ses with demand := d } st) (h.congr rfl)
    ses.key.cell (fun k => { k with countA := k.countA + (d - ses.demand) }) ⟨rfl, rfl⟩
  moved h _ _ _ := h.relocate _ _ _ _
  fetched p k h := h.butPending (cellsButPending_fetchNotices _ _ _)

theorem keepsEvents_levels : KeepsEvents LevelsFollow where
  toKeepsTables := keepsTables_levels
  handedOver h _ := h.congr (State.handOver_cells ..)
  answered _ _ _ h := h.congr rfl
  discarded _ h := h.congr rfl
  arrived p r h := h.acceptFrame p r
  sent _ _ h _ := h.congr rfl
  withdrawn {s l p r} h _ := LevelsFollow.butPending (s := (s.handOver l p).answer p r (bare .ok))
    (h.congr (State.handOver_cells ..)) (cellsButPending_enterDraining _ p)
  expired {s p} h _ := LevelsFollow.congr (s := s.enterDraining p) (h.butPending (cellsButPending_enterDraining s p)) rfl
  pulseEnded h _ := h.congr rfl
  begun {s j} h _ _ := by
    cases j with
    | portDrain p => exact h.congr rfl
    | cellDrain c =>
      have hflag : LevelsFollow (s.modCell c fun k => { k with drainFlag := false }) := h.modCell c _ fun hk => hk
      exact hflag.congr rfl
  cellDrained {s c} h _ _ := LevelsFollow.congr (s := s.closeCell c) (h.closeCell c) rfl
  portDrained h _ _ := h.congr rfl
  accessed _ _ _ _ h := h.congr rfl
  tableOpened h := h.congr rfl
  tableReset {s} h d := by
    rw [State.cell_resetTable]
    exact Cell.levelSound.recomputed ⟨Nat.zero_le 3, fun _ => rfl⟩
  opened {s c} h _ := by
    have hopen : LevelsBut [c] (s.commandDone c .opened) := by
      intro d
      unfold State.commandDone
      rw [State.cell_modCell]
      split
      · next hd => exact ⟨⟨(h c).2.1, by simp⟩, fun hn => absurd hd (by simpa using hn)⟩
      · exact h.but [c] d
    exact hopen.recompute.follow
  barred {s c} h hs := h.commandDone c _ (by simp [hs]) (by simp)
  unbarred {s c} h hs := h.commandDone c _ (by simp [hs]) (by simp)
  draining {s c} h hs := by
    have hdone := h.commandDone c .draining (by rcases hs with hs | hs <;> simp [hs]) (by simp)
    exact LevelsFollow.congr (s := (s.commandDone c .draining).modCell c fun k => { k with drainFlag := true })
      (hdone.modCell c _ fun hk => hk) rfl
  stopped {s c} h hs := by
    have hdone := h.commandDone c .barred (by simp [hs]) (by simp)
    exact LevelsFollow.congr (s := (s.commandDone c .barred).modCell c fun k => { k with drainFlag := false })
      (hdone.modCell c _ fun hk => hk) rfl
  refused c h := by
    unfold State.commandRefused
    exact h.modCell c _ fun hk => hk
  watchRestarted h := h.congr rfl
  attention _ _ h := h.congr rfl
  pulseWidth _ _ h := h.congr rfl
  ringSize _ _ h := h.congr rfl
  eventsSet _ _ h := h.congr rfl

theorem LevelsFollow.reset : LevelsFollow State.reset := by
  intro c
  rw [State.cell_reset]
  exact ⟨rfl, by decide, fun _ => rfl, fun h => absurd rfl h⟩

theorem keepsAll_levels : KeepsAll LevelsFollow where
  toKeepsEvents := keepsEvents_levels
  pinReset _ := LevelsFollow.reset.congr rfl
  ticked _ _ h := h.congr rfl
  stored f part b h := h.storePart f part b
  capacity {s c v} h _ := h.recount c (fun k => { k with capacity := v }) ⟨rfl, rfl⟩
  floor {s c v} h _ := h.modCell c (fun k => { k with floor := v }) fun hk => hk
  threshold1 c v h := h.recount c (fun k => { k with t1 := clampThreshold v }) ⟨rfl, rfl⟩
  threshold2 c v h := h.recount c (fun k => { k with t2 := clampThreshold v }) ⟨rfl, rfl⟩
  threshold3 c v h := h.recount c (fun k => { k with t3 := clampThreshold v }) ⟨rfl, rfl⟩
  owner {s c} p h _ _ := h.modCell c (fun k => { k with owner := p }) fun hk => hk
  depthLimit c v h := h.modCell c (fun k => { k with depthLimit := min 64 v }) fun hk => hk
  reweighed {s} v h d := by
    have hd : (s.reweigh (min 4095 v)).cell d
        = { s.cell d with queue := ((s.reweigh (min 4095 v)).cell d).queue } := by
      simp [State.reweigh, State.cell, State.reorderQueue]
    rw [hd]
    exact h d
  supervision _ h := h.congr rfl

/-- Settles O7: every change of a cell's figures ends in a recompute of that cell. -/
theorem levelsFollowTheFigures : Obligations.LevelsFollowTheFigures :=
  fun _ _ h hstep => keepsAll_levels.step (fun _ h => h) h hstep

end Sys2Proof.Machine
end

section
/-! Proofs that every step keeps the settings in their ranges, the lanes within their sizes and the Drain Engine exact. -/

namespace Sys2Proof.Machine

/-! ### Changes of one port or one cell -/

theorem State.forall_port_modPort {Q : Port → Prop} {s : State} (h : ∀ o, Q (s.port o)) (p : PortIx) (f : Port → Port)
    (hf : Q (s.port p) → Q (f (s.port p))) (o : PortIx) : Q ((s.modPort p f).port o) := by
  rw [State.port_modPort]
  split
  · exact hf (h p)
  · exact h o

theorem State.forall_cell_modCell {Q : Cell → Prop} {s : State} (h : ∀ d, Q (s.cell d)) (c : CellIx) (f : Cell → Cell)
    (hf : Q (s.cell c) → Q (f (s.cell c))) (d : CellIx) : Q ((s.modCell c f).cell d) := by
  rw [State.cell_modCell]
  split
  · exact hf (h c)
  · exact h d

theorem State.port_resetTable (s : State) (p : PortIx) : s.resetTable.port p = (s.port p).afterReset := by
  unfold State.resetTable
  rw [State.chooseJob_port]
  simp [State.port]

theorem State.port_restartSupervision (s : State) (p : PortIx) : s.restartSupervision.port p
    = if (s.port p).state = .up then { s.port p with timestamp := s.tick } else s.port p := by
  simp [State.restartSupervision, State.port]
  rfl

theorem quiet_endPulse (s : State) (p : PortIx) : Quiet s (s.modPort p Port.endPulse) :=
  (still_modPort s p Port.endPulse fun _ => rfl).quiet

/-! ### Settings in range, lanes within their sizes -/

/-- A port's settings lie in their ranges and its lanes within their sizes. -/
def Port.sound (q : Port) : Prop := q.inRange ∧ q.lanesBounded

/-- The settings of all blocks lie in their ranges, and the lanes within their sizes. -/
structure SettingsSound (s : State) : Prop where
  cells : ∀ c, (s.cell c).inRange
  classes : ∀ k, (s.classAt k).inRange
  ports : ∀ p, (s.port p).sound
  weight : s.agingWeight ≤ 4095
  interval : s.supervision ≤ 5000

theorem settingsSound_iff (s : State) : SettingsSound s ↔ s.settingsInRange ∧ ∀ p, (s.port p).lanesBounded := by
  constructor
  · rintro ⟨hc, hk, hp, hw, hs⟩
    exact ⟨⟨hc, hk, fun p => (hp p).1, hw, hs⟩, fun p => (hp p).2⟩
  · rintro ⟨⟨hc, hk, hp, hw, hs⟩, hl⟩
    exact ⟨hc, hk, fun p => ⟨hp p, hl p⟩, hw, hs⟩

theorem Port.sound.congr {q r : Port} (h : q.sound) (hside : r.side = q.side) : r.sound := by
  obtain ⟨⟨hring, hwidth, herror⟩, hurgent, hnormal⟩ := h
  refine ⟨⟨?_, ?_, ?_⟩, ?_, ?_⟩
  · rwa [show r.ringSize = q.ringSize from congrArg PortSide.ringSize hside]
  · rwa [show r.pulseWidth = q.pulseWidth from congrArg PortSide.pulseWidth hside]
  · rwa [show r.errorCount = q.errorCount from congrArg PortSide.errorCount hside]
  · rwa [show r.urgentLane = q.urgentLane from congrArg PortSide.urgentLane hside]
  · rwa [show r.normalLane = q.normalLane from congrArg PortSide.normalLane hside]

theorem Cell.inRange.congr {k l : Cell} (h : k.inRange) (hsettings : l.settings = k.settings) : l.inRange := by
  unfold Cell.inRange at h ⊢
  rwa [show l.capacity = k.capacity from congrArg CellSettings.capacity hsettings,
    show l.floor = k.floor from congrArg CellSettings.floor hsettings,
    show l.t1 = k.t1 from congrArg CellSettings.t1 hsettings, show l.t2 = k.t2 from congrArg CellSettings.t2 hsettings,
    show l.t3 = k.t3 from congrArg CellSettings.t3 hsettings,
    show l.hysteresis = k.hysteresis from congrArg CellSettings.hysteresis hsettings,
    show l.depthLimit = k.depthLimit from congrArg CellSettings.depthLimit hsettings]

theorem SettingsSound.quiet {s t : State} (h : SettingsSound s) (hq : Quiet s t) : SettingsSound t := by
  obtain ⟨hb, hc, hp⟩ := hq
  refine ⟨fun c => (h.cells c).congr (hc c), fun k => ?_, fun p => (h.ports p).congr (hp p), ?_, ?_⟩
  · rw [State.classAt, show t.classes = s.classes from congrArg Background.classes hb]
    exact h.classes k
  · rw [show t.agingWeight = s.agingWeight from congrArg Background.agingWeight hb]
    exact h.weight
  · rw [show t.supervision = s.supervision from congrArg Background.supervision hb]
    exact h.interval

theorem SettingsSound.modCell {s : State} (h : SettingsSound s) (c : CellIx) (f : Cell → Cell)
    (hf : (s.cell c).inRange → (f (s.cell c)).inRange) : SettingsSound (s.modCell c f) :=
  ⟨State.forall_cell_modCell h.cells c f hf, h.classes, h.ports, h.weight, h.interval⟩

theorem SettingsSound.modPort {s : State} (h : SettingsSound s) (p : PortIx) (f : Port → Port)
    (hf : (s.port p).sound → (f (s.port p)).sound) : SettingsSound (s.modPort p f) :=
  ⟨h.cells, h.classes, State.forall_port_modPort h.ports p f hf, h.weight, h.interval⟩

theorem SettingsSound.modClass {s : State} (h : SettingsSound s) (k : ClassIx) (f : ServiceClass → ServiceClass)
    (hf : (s.classAt k).inRange → (f (s.classAt k)).inRange) : SettingsSound (s.modClass k f) := by
  refine ⟨h.cells, fun j => ?_, h.ports, h.weight, h.interval⟩
  by_cases hj : j = k
  · subst hj
    rw [State.classAt_modClass_self]
    exact hf (h.classes j)
  · rw [State.classAt_modClass_ne _ _ _ _ hj]
    exact h.classes j

theorem SettingsSound.recompute {s : State} (h : SettingsSound s) (c : CellIx) : SettingsSound (s.recompute c) :=
  h.quiet (still_recompute s c).quiet

theorem SettingsSound.handOver {s : State} (h : SettingsSound s) (l : Lane) (p : PortIx) : SettingsSound (s.handOver l p) := by
  have hpointer : SettingsSound (s.setPointer l p) := by
    cases l <;> exact ⟨h.cells, h.classes, h.ports, h.weight, h.interval⟩
  refine hpointer.modPort p (fun q => q.setLane l (q.lane l).tail) fun hq => ?_
  obtain ⟨hrange, hurgent, hnormal⟩ := hq
  cases l with
  | urgent => exact ⟨hrange, (List.length_tail ..).trans_le ((Nat.sub_le ..).trans hurgent), hnormal⟩
  | normal => exact ⟨hrange, hurgent, (List.length_tail ..).trans_le ((Nat.sub_le ..).trans hnormal)⟩

theorem SettingsSound.enterDraining {s : State} (h : SettingsSound s) (p : PortIx) : SettingsSound (s.enterDraining p) := by
  have haway : SettingsSound (s.turnAway p) := h.modPort p _ fun hq => ⟨hq.1, Nat.zero_le _, Nat.zero_le _⟩
  have hcleared : SettingsSound ((s.turnAway p).clearNotices p) := haway.quiet (still_clearNotices _ p).quiet
  have hset := hcleared.modPort p (fun q => { q with state := .draining, drainFlag := true }) fun hq => hq
  exact ⟨hset.cells, hset.classes, hset.ports, hset.weight, hset.interval⟩

theorem SettingsSound.placeRequest {s : State} (h : SettingsSound s) (p : PortIx) (r : Request) :
    SettingsSound (s.placeRequest p r) := by
  unfold State.placeRequest
  split
  · next hroom =>
    refine h.modPort p _ fun hq => ?_
    obtain ⟨hrange, hurgent, hnormal⟩ := hq
    cases hl : r.lane <;> rw [hl] at hroom
    · exact ⟨hrange, (List.length_append ..).trans_le (Nat.succ_le_of_lt hroom), hnormal⟩
    · exact ⟨hrange, hurgent, (List.length_append ..).trans_le (Nat.succ_le_of_lt hroom)⟩
  · exact h.modPort p _ fun hq => hq

theorem SettingsSound.acceptFrame {s : State} (h : SettingsSound s) (p : PortIx) (r : Request) :
    SettingsSound (s.acceptFrame p r) := by
  unfold State.acceptFrame
  split
  · exact h.modPort p _ fun hq => hq
  · exact (h.modPort p (fun q => { q with state := .up, timestamp := s.tick }) fun hq => hq).placeRequest p r

theorem SettingsSound.closeCell {s : State} (h : SettingsSound s) (c : CellIx) : SettingsSound (s.closeCell c) := by
  have hclosed := h.modCell c (fun k => { k with state := .closed, level := 0 }) fun hk => hk
  unfold State.closeCell
  dsimp only
  split
  · exact hclosed
  · exact hclosed.quiet (still_raiseLevel _ c).quiet

theorem Port.writeEnable_side (q : Port) (now : Tick) (enable : Bool) :
    (q.writeEnable now enable).side = { q.side with attnEnable := enable } := by
  unfold Port.writeEnable
  split
  · next hsame => rw [hsame]; rfl
  · split
    · next henable => rw [Port.followRing_side, henable]; rfl
    · next henable => rw [Bool.not_eq_true _ |>.mp henable]; rfl

/-- The settings part of an attention write: mode and polarity are taken while enable is clear (R162). -/
def Port.takeMode (q : Port) (b : Byte) : Port :=
  if q.attnEnable then q else { q with attnPulse := b.getLsbD 1, attnActiveLow := b.getLsbD 2 }

theorem Port.writeAttention_eq (q : Port) (now : Tick) (b : Byte) :
    q.writeAttention now b = (q.takeMode b).writeEnable now (b.getLsbD 0) := rfl

theorem SettingsSound.attention {s : State} (h : SettingsSound s) (p : PortIx) (b : Byte) :
    SettingsSound (s.modPort p fun q => q.writeAttention s.tick b) := by
  refine h.modPort p _ fun hq => ?_
  have hmode : ((s.port p).takeMode b).sound := by
    unfold Port.takeMode
    split <;> exact hq
  have henabled : ({ (s.port p).takeMode b with attnEnable := b.getLsbD 0 } : Port).sound := hmode
  rw [Port.writeAttention_eq]
  exact henabled.congr (Port.writeEnable_side _ _ _)

theorem SettingsSound.pulseWidth {s : State} (h : SettingsSound s) (p : PortIx) (b : Byte) :
    SettingsSound (s.modPort p fun q => q.writePulseWidth b) := by
  refine h.modPort p _ fun hq => ?_
  unfold Port.writePulseWidth
  split
  · exact hq
  · obtain ⟨⟨hring, -, herror⟩, hlanes⟩ := hq
    have hb : b.toNat < 256 := b.isLt
    exact ⟨⟨hring, ⟨Nat.le_max_left .., by simp only; omega⟩, herror⟩, hlanes⟩

theorem SettingsSound.ringSize {s : State} (h : SettingsSound s) (p : PortIx) (b : Byte) :
    SettingsSound (s.modPort p fun q => q.writeRingSize b) := by
  refine h.modPort p _ fun hq => ?_
  unfold Port.writeRingSize
  split
  · next hb =>
    obtain ⟨⟨-, hwidth, herror⟩, hlanes⟩ := hq
    have hcode : b.toNat = 0 ∨ b.toNat = 1 ∨ b.toNat = 2 ∨ b.toNat = 3 := by omega
    refine ⟨⟨?_, hwidth, herror⟩, hlanes⟩
    rcases hcode with hb | hb | hb | hb <;> simp [hb]
  · exact hq

theorem SettingsSound.tableReset {s : State} (h : SettingsSound s) : SettingsSound s.resetTable := by
  refine ⟨fun c => ?_, h.classes, fun p => ?_, h.weight, h.interval⟩
  · rw [State.cell_resetTable]
    exact h.cells c
  · rw [State.port_resetTable]
    exact h.ports p

theorem SettingsSound.restartSupervision {s : State} (h : SettingsSound s) : SettingsSound s.restartSupervision := by
  refine ⟨h.cells, h.classes, fun p => ?_, h.weight, h.interval⟩
  rw [State.port_restartSupervision]
  split <;> exact h.ports p

theorem clampRefuse_inRange (v : Nat) : 1 ≤ clampRefuse v ∧ clampRefuse v ≤ 4 := by
  unfold clampRefuse
  omega

theorem SettingsSound.storePart {s : State} (h : SettingsSound s) (f : Field) (part : Part) (b : Byte) :
    SettingsSound (s.storePart f part b) := by
  have hb : b.toNat < 256 := b.isLt
  have hv : (s.delivered b).toNat < 65536 := (s.delivered b).isLt
  cases part with
  | whole =>
    simp only [State.storePart, State.storeByte]
    split
    · refine h.modCell _ _ fun ⟨hk, hf, h1, h2, h3, _, hd⟩ => ⟨hk, hf, h1, h2, h3, Nat.le_of_lt_succ hb, hd⟩
    · exact h.modClass _ _ fun ⟨_, hrest⟩ => ⟨Nat.min_le_left .., hrest⟩
    · exact h.modClass _ _ fun hk => hk
    · exact h.modClass _ _ fun ⟨hl, _, hrest⟩ => ⟨hl, Nat.min_le_left .., hrest⟩
    · exact h.modClass _ _ fun ⟨hl, hboost, _, hrest⟩ => ⟨hl, hboost, clampRefuse_inRange _, hrest⟩
    · exact h
  | high =>
    simp only [State.storePart]
    split
    · exact ⟨h.cells, h.classes, h.ports, h.weight, h.interval⟩
    · exact h
  | low =>
    simp only [State.storePart, State.storeHalf]
    split
    · exact h.modClass _ _ fun ⟨hl, hboost, hrefuse, _, hrest⟩ => ⟨hl, hboost, hrefuse, Nat.le_of_lt_succ hv, hrest⟩
    · exact h.modClass _ _ fun ⟨hl, hboost, hrefuse, hguard, _, hrest⟩ => ⟨hl, hboost, hrefuse, hguard, Nat.le_of_lt_succ hv, hrest⟩
    · exact h.modClass _ _ fun ⟨hl, hboost, hrefuse, hguard, hgrace, _⟩ =>
        ⟨hl, hboost, hrefuse, hguard, hgrace, Nat.le_of_lt_succ hv⟩
    · exact h

theorem clampThreshold_inRange (v : Nat) : 1 ≤ clampThreshold v ∧ clampThreshold v ≤ 1000 := by
  unfold clampThreshold
  omega

theorem settingsSound_reset : SettingsSound State.reset := by
  refine ⟨fun c => ?_, fun k => ?_, fun p => ?_, by decide, by decide⟩
  · rw [State.cell_reset]
    unfold Cell.inRange
    decide
  · rw [State.classAt_reset]
    unfold ServiceClass.inRange
    decide
  · rw [State.port_reset]
    unfold Port.sound Port.inRange Port.lanesBounded
    decide

theorem keepsEvents_settings : KeepsEvents SettingsSound where
  toKeepsTables := KeepsTables.of_quiet fun hq h => h.quiet hq
  handedOver {_ l p _} h _ := h.handOver l p
  answered p _ _ h := h.modPort p _ fun hq => hq
  discarded p h :=
    (h.modPort p (fun q => { q with errorCount := min 65535 (q.errorCount + 1) })
      fun ⟨⟨hring, hwidth, _⟩, hlanes⟩ => ⟨⟨hring, hwidth, Nat.min_le_left ..⟩, hlanes⟩).quiet (quiet_raiseEvent ..)
  arrived p r h := h.acceptFrame p r
  sent {s p r rest} bytes _ h _ := by
    have hsent := h.modPort p (fun q => { q with transmit := rest, sent := bytes }) fun hq => hq
    exact ⟨hsent.cells, hsent.classes, hsent.ports, hsent.weight, hsent.interval⟩
  withdrawn {s l p r} h _ := ((h.handOver l p).modPort p _ fun hq => hq).enterDraining p
  expired {_ p} h _ := (h.enterDraining p).quiet (quiet_raiseEvent ..)
  pulseEnded {s p} h _ := h.quiet (quiet_endPulse s p)
  begun {s j} h _ _ := by
    cases j with
    | portDrain p =>
      have hset := h.modPort p (fun q => { q with drainFlag := false }) fun hq => hq
      exact ⟨hset.cells, hset.classes, hset.ports, hset.weight, hset.interval⟩
    | cellDrain c =>
      have hset := h.modCell c (fun k => { k with drainFlag := false }) fun hk => hk
      exact ⟨hset.cells, hset.classes, hset.ports, hset.weight, hset.interval⟩
  cellDrained {_ c} h _ _ :=
    have hclosed := h.closeCell c
    ⟨hclosed.cells, hclosed.classes, hclosed.ports, hclosed.weight, hclosed.interval⟩
  portDrained {s p} h _ _ :=
    have hdown := h.modPort p (fun q => { q with state := .down }) fun hq => hq
    ⟨hdown.cells, hdown.classes, hdown.ports, hdown.weight, hdown.interval⟩
  accessed _ _ _ _ h := ⟨h.cells, h.classes, h.ports, h.weight, h.interval⟩
  tableOpened h := ⟨h.cells, h.classes, h.ports, h.weight, h.interval⟩
  tableReset h := h.tableReset
  opened {_ c} h _ := (h.modCell c (fun k => { k with state := .opened, result := .done }) fun hk => hk).recompute c
  barred {_ c} h _ := h.modCell c _ fun hk => hk
  unbarred {_ c} h _ := h.modCell c _ fun hk => hk
  draining {_ c} h _ :=
    have hset := (h.modCell c (fun k => { k with state := .draining, result := .done }) fun hk => hk).modCell c
      (fun k => { k with drainFlag := true }) fun hk => hk
    ⟨hset.cells, hset.classes, hset.ports, hset.weight, hset.interval⟩
  stopped {_ c} h _ :=
    have hset := (h.modCell c (fun k => { k with state := .barred, result := .done }) fun hk => hk).modCell c
      (fun k => { k with drainFlag := false }) fun hk => hk
    ⟨hset.cells, hset.classes, hset.ports, hset.weight, hset.interval⟩
  refused c h := h.modCell c _ fun hk => hk
  watchRestarted h := h.restartSupervision
  attention p b h := h.attention p b
  pulseWidth p b h := h.pulseWidth p b
  ringSize p b h := h.ringSize p b
  eventsSet _ _ h := ⟨h.cells, h.classes, h.ports, h.weight, h.interval⟩

theorem keepsAll_settings : KeepsAll SettingsSound where
  toKeepsEvents := keepsEvents_settings
  pinReset _ := ⟨settingsSound_reset.cells, settingsSound_reset.classes, settingsSound_reset.ports, settingsSound_reset.weight,
    settingsSound_reset.interval⟩
  ticked _ _ h := ⟨h.cells, h.classes, h.ports, h.weight, h.interval⟩
  stored f part b h := h.storePart f part b
  capacity {_ c v} h hv :=
    (h.modCell c (fun k => { k with capacity := v }) fun ⟨_, hrest⟩ => ⟨Nat.le_of_lt_succ hv, hrest⟩).recompute c
  floor {_ c v} h hv := h.modCell c (fun k => { k with floor := v }) fun ⟨hk, _, hrest⟩ => ⟨hk, Nat.le_of_lt_succ hv, hrest⟩
  threshold1 c v h := (h.modCell c (fun k => { k with t1 := clampThreshold v }) fun ⟨hk, hf, _, hrest⟩ =>
    ⟨hk, hf, clampThreshold_inRange v, hrest⟩).recompute c
  threshold2 c v h := (h.modCell c (fun k => { k with t2 := clampThreshold v }) fun ⟨hk, hf, h1, _, hrest⟩ =>
    ⟨hk, hf, h1, clampThreshold_inRange v, hrest⟩).recompute c
  threshold3 c v h := (h.modCell c (fun k => { k with t3 := clampThreshold v }) fun ⟨hk, hf, h1, h2, _, hrest⟩ =>
    ⟨hk, hf, h1, h2, clampThreshold_inRange v, hrest⟩).recompute c
  owner {_ c} p h _ _ := h.modCell c (fun k => { k with owner := p }) fun hk => hk
  depthLimit c v h := h.modCell c (fun k => { k with depthLimit := min 64 v }) fun ⟨hk, hf, h1, h2, h3, hh, _⟩ =>
    ⟨hk, hf, h1, h2, h3, hh, Nat.min_le_left ..⟩
  reweighed {s} v h := by
    refine ⟨fun c => ?_, h.classes, h.ports, Nat.min_le_left .., h.interval⟩
    have hc : (s.reweigh (min 4095 v)).cell c = { s.cell c with queue := ((s.reweigh (min 4095 v)).cell c).queue } := by
      simp [State.reweigh, State.cell, State.reorderQueue]
    rw [hc]
    exact h.cells c
  supervision _ h := ⟨h.cells, h.classes, h.ports, h.weight, Nat.min_le_left ..⟩

theorem SettingsSound.step {s t : State} (h : SettingsSound s) (hstep : step s = .next t) : SettingsSound t :=
  keepsAll_settings.step (fun _ h => ⟨h.cells, h.classes, h.ports, h.weight, h.interval⟩) h hstep

end Sys2Proof.Machine
end

section
/-! Proof that every step keeps the Drain Engine exact (8.1, 8.3, 8.4): its choice, the drain flags and the DRAINING states. -/

namespace Sys2Proof.Machine

/-! ### The drains and the choice, apart -/

/-- The part of the engine's exactness that speaks of one port, beside its choice. -/
def Port.drainExact (q : Port) (running : Prop) : Prop :=
  (q.state = .draining ↔ q.drainFlag = true ∨ running) ∧ ¬ (q.drainFlag = true ∧ running)
    ∧ (q.state ≠ .up → q.urgentLane = [] ∧ q.normalLane = [])

/-- The part of the engine's exactness that speaks of one cell, beside its choice. -/
def Cell.drainExact (k : Cell) (running : Prop) : Prop :=
  (k.state = .draining ↔ k.drainFlag = true ∨ running) ∧ ¬ (k.drainFlag = true ∧ running)

theorem Port.drainExact.congr {q r : Port} {a b : Prop} (h : q.drainExact a) (hside : r.side = q.side) (hab : a ↔ b) :
    r.drainExact b := by
  unfold Port.drainExact at h ⊢
  rwa [← hab, show r.state = q.state from congrArg PortSide.state hside,
    show r.drainFlag = q.drainFlag from congrArg PortSide.drainFlag hside,
    show r.urgentLane = q.urgentLane from congrArg PortSide.urgentLane hside,
    show r.normalLane = q.normalLane from congrArg PortSide.normalLane hside]

theorem Cell.drainExact.congr {k l : Cell} {a b : Prop} (h : k.drainExact a) (hsettings : l.settings = k.settings) (hab : a ↔ b) :
    l.drainExact b := by
  unfold Cell.drainExact at h ⊢
  rwa [← hab, show l.state = k.state from congrArg CellSettings.state hsettings,
    show l.drainFlag = k.drainFlag from congrArg CellSettings.drainFlag hsettings]

/-- The flag of a drain is set (R139). -/
def State.flagged (s : State) (j : Job) : Prop :=
  match j with
  | .portDrain p => (s.port p).drainFlag = true
  | .cellDrain c => (s.cell c).drainFlag = true

/-- The engine without the demands on its choice while idle: every port and cell is DRAINING exactly while its drain is pending
or in progress, and a choice is of a pending drain. -/
structure DrainsExact (s : State) : Prop where
  ports : ∀ p, (s.port p).drainExact (s.job = some (.portDrain p))
  cells : ∀ c, (s.cell c).drainExact (s.job = some (.cellDrain c))
  choice : ∀ j, s.chosen = some j → s.flagged j

/-- The engine has a choice only while idle; one that is idle with no choice has no flag set (R140). -/
structure Settled (s : State) : Prop where
  busy : s.job ≠ none → s.chosen = none
  idle : s.job = none → s.chosen = none → ∀ j, ¬ s.flagged j

theorem engineExact_iff (s : State) : s.engineExact ↔ DrainsExact s ∧ Settled s := by
  constructor
  · rintro ⟨hbusy, hidle, hports, hcells⟩
    refine ⟨⟨fun p => (hports p).2, fun c => (hcells c).2, fun j hj => ?_⟩, hbusy, fun hjob hch j hj => ?_⟩
    · cases j with
      | portDrain p => exact (hports p).1 hj
      | cellDrain c => exact (hcells c).1 hj
    · obtain ⟨hp, hc⟩ := hidle hjob hch
      cases j with
      | portDrain p => exact absurd hj (by simp [State.flagged, hp p])
      | cellDrain c => exact absurd hj (by simp [State.flagged, hc c])
  · rintro ⟨⟨hports, hcells, hchoice⟩, hbusy, hidle⟩
    refine ⟨hbusy, fun hjob hch => ⟨fun p => ?_, fun c => ?_⟩, fun p => ⟨fun hp => hchoice _ hp, hports p⟩,
      fun c => ⟨fun hc => hchoice _ hc, hcells c⟩⟩
    · exact Bool.eq_false_iff.2 (hidle hjob hch (.portDrain p))
    · exact Bool.eq_false_iff.2 (hidle hjob hch (.cellDrain c))

/-- A drain in progress or pending; what a port or a cell in DRAINING tells. -/
theorem DrainsExact.not_running {s : State} (h : DrainsExact s) {p : PortIx} (hp : (s.port p).state ≠ .draining) :
    s.job ≠ some (.portDrain p) := fun hjob => hp ((h.ports p).1.2 (.inr hjob))

theorem DrainsExact.cell_not_running {s : State} (h : DrainsExact s) {c : CellIx} (hc : (s.cell c).state ≠ .draining) :
    s.job ≠ some (.cellDrain c) := fun hjob => hc ((h.cells c).1.2 (.inr hjob))

/-- What an idle engine starts next is a pending drain. -/
theorem DrainsExact.nextJob_flagged {s : State} (h : DrainsExact s) {j : Job} (hj : s.nextJob = some j) : s.flagged j := by
  rcases Option.or_eq_some_iff.1 hj with hch | ⟨-, hfirst⟩
  · exact h.choice j hch
  · rcases State.firstPending_flag hfirst with ⟨p, rfl, hp⟩ | ⟨c, rfl, hc⟩
    · exact hp
    · exact hc

/-- Looking for a job makes the choice exact (R140). -/
theorem DrainsExact.chooseJob {s : State} (h : DrainsExact s) : s.chooseJob.engineExact := by
  refine (engineExact_iff _).2 ⟨⟨h.ports, h.cells, fun j hj => ?_⟩, fun hjob => if_neg hjob, fun hjob hch j hj => ?_⟩
  · have hnext : (if s.job = none then s.nextJob else none) = some j := hj
    split at hnext
    · exact h.nextJob_flagged hnext
    · cases hnext
  · have hnext : s.nextJob = none := by
      have hsame : s.job = none := hjob
      have hnone : (if s.job = none then s.nextJob else none) = none := hch
      rwa [if_pos hsame] at hnone
    obtain ⟨hp, hc⟩ := State.firstPending_eq_none.1 (Option.or_eq_none_iff.1 hnext).2
    cases j with
    | portDrain p => exact absurd hj (by simpa [State.flagged] using hp p)
    | cellDrain c => exact absurd hj (by simpa [State.flagged] using hc c)

/-! ### Changes that leave the engine alone -/

/-- What the Drain Engine looks at of a port. -/
structure EngineSide where
  state : PortState
  drainFlag : Bool
  urgentLane : List Request
  normalLane : List Request

/-- The part of a port that the Drain Engine looks at. -/
def Port.engineSide (q : Port) : EngineSide := EngineSide.mk q.state q.drainFlag q.urgentLane q.normalLane

theorem Port.engineSide_of_side {q r : Port} (h : q.side = r.side) : q.engineSide = r.engineSide :=
  congrArg (fun x : PortSide => EngineSide.mk x.state x.drainFlag x.urgentLane x.normalLane) h

/-- The engine looks at the job, the choice, and of each port and cell at the state, the flag and the lanes. -/
theorem State.engineExact.congr {s t : State} (h : s.engineExact) (hjob : t.job = s.job) (hchosen : t.chosen = s.chosen)
    (hports : ∀ p, (t.port p).engineSide = (s.port p).engineSide) (hcells : ∀ c, (t.cell c).settings = (s.cell c).settings) :
    t.engineExact := by
  have hstate p : (t.port p).state = (s.port p).state := congrArg EngineSide.state (hports p)
  have hflag p : (t.port p).drainFlag = (s.port p).drainFlag := congrArg EngineSide.drainFlag (hports p)
  have hurgent p : (t.port p).urgentLane = (s.port p).urgentLane := congrArg EngineSide.urgentLane (hports p)
  have hnormal p : (t.port p).normalLane = (s.port p).normalLane := congrArg EngineSide.normalLane (hports p)
  have hcell c : (t.cell c).state = (s.cell c).state := congrArg CellSettings.state (hcells c)
  have hcflag c : (t.cell c).drainFlag = (s.cell c).drainFlag := congrArg CellSettings.drainFlag (hcells c)
  unfold State.engineExact at h ⊢
  simpa only [hjob, hchosen, hstate, hflag, hurgent, hnormal, hcell, hcflag] using h

theorem State.engineExact.quiet {s t : State} (h : s.engineExact) (hq : Quiet s t) : t.engineExact :=
  h.congr hq.job (congrArg Background.chosen hq.1) (fun p => Port.engineSide_of_side (hq.2.2 p)) hq.2.1

/-- A change of a port that keeps its flag, whether it is DRAINING, and its lanes empty while it is not UP. -/
theorem DrainsExact.modPort {s : State} (h : DrainsExact s) (p : PortIx) (f : Port → Port)
    (hstate : (f (s.port p)).state = .draining ↔ (s.port p).state = .draining)
    (hflag : (f (s.port p)).drainFlag = (s.port p).drainFlag)
    (hlanes : ((s.port p).state ≠ .up → (s.port p).urgentLane = [] ∧ (s.port p).normalLane = []) →
      (f (s.port p)).state ≠ .up → (f (s.port p)).urgentLane = [] ∧ (f (s.port p)).normalLane = []) :
    DrainsExact (s.modPort p f) := by
  refine ⟨fun o => ?_, h.cells, fun j hj => ?_⟩
  · rw [State.port_modPort]
    split
    · next ho =>
      subst ho
      obtain ⟨hiff, hnot, hl⟩ := h.ports o
      unfold Port.drainExact
      rw [hstate, hflag]
      exact ⟨hiff, hnot, hlanes hl⟩
    · exact h.ports o
  · have := h.choice j hj
    cases j with
    | cellDrain c => exact this
    | portDrain o =>
      show ((s.modPort p f).port o).drainFlag = true
      rw [State.port_modPort]
      split
      · next ho => rw [hflag]; subst ho; exact this
      · exact this

theorem State.engineExact.modPort {s : State} (h : s.engineExact) (p : PortIx) (f : Port → Port)
    (hstate : (f (s.port p)).state = .draining ↔ (s.port p).state = .draining)
    (hflag : (f (s.port p)).drainFlag = (s.port p).drainFlag)
    (hlanes : ((s.port p).state ≠ .up → (s.port p).urgentLane = [] ∧ (s.port p).normalLane = []) →
      (f (s.port p)).state ≠ .up → (f (s.port p)).urgentLane = [] ∧ (f (s.port p)).normalLane = []) :
    (s.modPort p f).engineExact := by
  obtain ⟨hd, hbusy, hidle⟩ := (engineExact_iff s).1 h
  refine (engineExact_iff _).2 ⟨hd.modPort p f hstate hflag hlanes, hbusy, fun hjob hch j hj => hidle hjob hch j ?_⟩
  cases j with
  | cellDrain c => exact hj
  | portDrain o =>
    have hset : ((s.modPort p f).port o).drainFlag = true := hj
    rw [State.port_modPort] at hset
    split at hset
    · next ho => rw [hflag] at hset; subst ho; exact hset
    · exact hset

/-- A change of a port beside what the engine looks at. -/
theorem State.engineExact.modPort_same {s : State} (h : s.engineExact) (p : PortIx) (f : Port → Port)
    (hf : (f (s.port p)).engineSide = (s.port p).engineSide) : (s.modPort p f).engineExact := by
  refine h.congr rfl rfl (fun o => ?_) fun _ => rfl
  rw [State.port_modPort]
  split
  · next ho => rw [hf, ho]
  · rfl

/-- A change of a cell that keeps its flag and whether it is DRAINING. -/
theorem State.engineExact.modCell {s : State} (h : s.engineExact) (c : CellIx) (f : Cell → Cell)
    (hstate : (f (s.cell c)).state = .draining ↔ (s.cell c).state = .draining)
    (hflag : (f (s.cell c)).drainFlag = (s.cell c).drainFlag) : (s.modCell c f).engineExact := by
  obtain ⟨⟨hports, hcells, hchoice⟩, hbusy, hidle⟩ := (engineExact_iff s).1 h
  have hflags (j : Job) : (s.modCell c f).flagged j ↔ s.flagged j := by
    cases j with
    | portDrain o => rfl
    | cellDrain d =>
      show ((s.modCell c f).cell d).drainFlag = true ↔ _
      rw [State.cell_modCell]
      split
      · next hd => rw [hflag]; subst hd; rfl
      · rfl
  refine (engineExact_iff _).2 ⟨⟨hports, fun d => ?_, fun j hj => (hflags j).2 (hchoice j hj)⟩, hbusy,
    fun hjob hch j hj => hidle hjob hch j ((hflags j).1 hj)⟩
  rw [State.cell_modCell]
  split
  · next hd =>
    subst hd
    unfold Cell.drainExact
    rw [hstate, hflag]
    exact hcells d
  · exact hcells d

/-! ### Ports that enter DRAINING, jobs that start and end -/

theorem State.engineExact.handOver {s : State} (h : s.engineExact) (l : Lane) (p : PortIx) : (s.handOver l p).engineExact := by
  have hpointer : (s.setPointer l p).engineExact := by cases l <;> exact h
  refine hpointer.modPort p (fun q => q.setLane l (q.lane l).tail) ?_ ?_ fun hl hup => ?_
  · cases l <;> rfl
  · cases l <;> rfl
  · cases l with
    | urgent =>
      obtain ⟨hu, hn⟩ := hl hup
      exact ⟨congrArg List.tail hu, hn⟩
    | normal =>
      obtain ⟨hu, hn⟩ := hl hup
      exact ⟨hu, congrArg List.tail hn⟩

/-- A port that is not DRAINING may enter it (R147). -/
theorem State.engineExact.enterDraining {s : State} (h : s.engineExact) {p : PortIx} (hp : (s.port p).state ≠ .draining) :
    (s.enterDraining p).engineExact := by
  have haway : (s.turnAway p).engineExact := h.modPort p _ Iff.rfl rfl fun _ _ => ⟨rfl, rfl⟩
  have hquiet : Quiet (s.turnAway p) ((s.turnAway p).clearNotices p) := (still_clearNotices _ p).quiet
  obtain ⟨hd, -⟩ := (engineExact_iff _).1 (haway.quiet hquiet)
  have hside := hquiet.2.2 p
  rw [State.turnAway, State.port_modPort_self] at hside
  have hstate : (((s.turnAway p).clearNotices p).port p).state ≠ .draining := by
    rw [show (((s.turnAway p).clearNotices p).port p).state = (s.port p).state from congrArg PortSide.state hside]
    exact hp
  rw [State.enterDraining_eq]
  refine DrainsExact.chooseJob ⟨fun o => ?_, hd.cells, fun j hj => ?_⟩
  · rw [State.port_modPort]
    split
    · next ho =>
      subst ho
      refine ⟨⟨fun _ => .inl rfl, fun _ => rfl⟩, fun ⟨_, hrun⟩ => hd.not_running hstate hrun, fun _ => ⟨?_, ?_⟩⟩
      · exact congrArg PortSide.urgentLane hside
      · exact congrArg PortSide.normalLane hside
    · exact hd.ports o
  · have hset := hd.choice j hj
    cases j with
    | cellDrain c => exact hset
    | portDrain o =>
      show ((((s.turnAway p).clearNotices p).modPort p fun q => { q with state := .draining, drainFlag := true }).port o).drainFlag
        = true
      rw [State.port_modPort]
      split
      · rfl
      · exact hset

/-- A request waits at an UP port alone. -/
theorem State.engineExact.up_of_choice {s : State} (h : s.engineExact) {l : Lane} {p : PortIx} {r : Request}
    (hc : s.arbiterChoice = some (l, p, r)) : (s.port p).state = .up := by
  have hfirst (l : Lane) (ps : List PortIx) (x : PortIx × Request) (hx : s.firstWaiting l ps = some x) :
      (s.port x.1).lane l ≠ [] := by
    induction ps with
    | nil => cases hx
    | cons q rest ih =>
      unfold State.firstWaiting at hx
      split at hx
      · next hl => cases hx; simp [hl]
      · exact ih hx
  have hwaits : (s.port p).lane l ≠ [] := by
    unfold State.arbiterChoice at hc
    split at hc
    · next hu => cases hc; exact hfirst .urgent _ _ hu
    · obtain ⟨x, hx, hxe⟩ := Option.map_eq_some_iff.1 hc
      cases hxe
      exact hfirst .normal _ _ hx
  by_contra hup
  obtain ⟨hd, -⟩ := (engineExact_iff s).1 h
  obtain ⟨hu, hn⟩ := (hd.ports p).2.2 hup
  cases l with
  | urgent => exact hwaits hu
  | normal => exact hwaits hn

theorem State.engineExact.acceptFrame {s : State} (h : s.engineExact) (p : PortIx) (r : Request) :
    (s.acceptFrame p r).engineExact := by
  unfold State.acceptFrame
  split
  · exact h.modPort_same p _ rfl
  · next hst =>
    have hup : (s.modPort p fun q => { q with state := .up, timestamp := s.tick }).engineExact :=
      h.modPort p (fun q => { q with state := .up, timestamp := s.tick }) (by simp [hst]) rfl fun _ hn => absurd rfl hn
    unfold State.placeRequest
    split
    · refine hup.modPort p _ ?_ ?_ fun _ hn => absurd ?_ hn
      · cases r.lane <;> rfl
      · cases r.lane <;> rfl
      · rw [State.port_modPort_self]
        cases r.lane <;> rfl
    · exact hup.modPort p _ Iff.rfl rfl fun hl => hl

/-- A pending drain that starts is in progress and pending no more (R140). -/
theorem State.engineExact.begun {s : State} {j : Job} (h : s.engineExact) (hjob : s.job = none) (hnext : s.nextJob = some j) :
    (s.begun j).engineExact := by
  obtain ⟨hd, -⟩ := (engineExact_iff s).1 h
  have hflag := hd.nextJob_flagged hnext
  have hstill (i : Job) (hi : i ≠ j) : s.job = some i ↔ some j = some i := by simp [hjob, hi.symm]
  have hchoice : Settled (s.begun j) ∧ ∀ i, (s.begun j).chosen = some i → (s.begun j).flagged i := by
    cases j <;> exact ⟨⟨fun _ => rfl, fun hn => by cases hn⟩, fun _ hi => by cases hi⟩
  refine (engineExact_iff _).2 ⟨⟨fun o => ?_, fun c => ?_, hchoice.2⟩, hchoice.1⟩
  · cases j with
    | portDrain p =>
      show ((s.modPort p fun q => { q with drainFlag := false }).port o).drainExact (some (Job.portDrain p) = some (.portDrain o))
      rw [State.port_modPort]
      split
      · next ho =>
        subst ho
        obtain ⟨hiff, -, hlanes⟩ := hd.ports o
        exact ⟨⟨fun _ => .inr rfl, fun _ => hiff.2 (.inl hflag)⟩, fun ⟨hf, _⟩ => Bool.false_ne_true hf, hlanes⟩
      · next ho => exact (hd.ports o).congr rfl (hstill _ (by simpa using ho))
    | cellDrain d => exact (hd.ports o).congr rfl (hstill _ (by simp))
  · cases j with
    | portDrain p => exact (hd.cells c).congr rfl (hstill _ (by simp))
    | cellDrain d =>
      show ((s.modCell d fun k => { k with drainFlag := false }).cell c).drainExact (some (Job.cellDrain d) = some (.cellDrain c))
      rw [State.cell_modCell]
      split
      · next hc =>
        subst hc
        obtain ⟨hiff, -⟩ := hd.cells c
        exact ⟨⟨fun _ => .inr rfl, fun _ => hiff.2 (.inl hflag)⟩, fun ⟨hf, _⟩ => Bool.false_ne_true hf⟩
      · next hc => exact (hd.cells c).congr rfl (hstill _ (by simpa using hc))

/-- A job that ends leaves its port or cell out of DRAINING, and the idle engine looks for the next (R144, R148). -/
theorem State.engineExact.portDrained {s : State} (h : s.engineExact) {p : PortIx} (hjob : s.job = some (.portDrain p)) :
    (s.completePortDrain p).engineExact := by
  obtain ⟨hd, hs⟩ := (engineExact_iff s).1 h
  have hchosen : s.chosen = none := hs.busy (by simp [hjob])
  have hended (i : Job) (hi : i ≠ .portDrain p) : s.job = some i ↔ none = some i := by simp [hjob, hi.symm]
  refine DrainsExact.chooseJob (s := { s.modPort p fun q => { q with state := .down } with job := none })
    ⟨fun o => ?_, fun c => (hd.cells c).congr rfl (hended _ (by simp)), fun j hj => absurd (hchosen.symm.trans hj) (by simp)⟩
  show ((s.modPort p fun q => { q with state := .down }).port o).drainExact (none = some (Job.portDrain o))
  rw [State.port_modPort]
  split
  · next ho =>
    subst ho
    obtain ⟨hiff, hnot, hlanes⟩ := hd.ports o
    have hdraining : (s.port o).state = .draining := hiff.2 (.inr hjob)
    have hflag : (s.port o).drainFlag ≠ true := fun hf => hnot ⟨hf, hjob⟩
    exact ⟨by simp [hflag], by simp, fun _ => hlanes (by simp [hdraining])⟩
  · next ho => exact (hd.ports o).congr rfl (hended _ (by simpa using ho))

theorem quiet_closeCell (s : State) (c : CellIx) :
    Quiet (s.modCell c fun k => { k with state := .closed, level := 0 }) (s.closeCell c) := by
  unfold State.closeCell
  dsimp only
  split
  · exact .refl _
  · exact (still_raiseLevel _ c).quiet

theorem State.engineExact.cellDrained {s : State} (h : s.engineExact) {c : CellIx} (hjob : s.job = some (.cellDrain c)) :
    (s.completeCellDrain c).engineExact := by
  obtain ⟨hd, hs⟩ := (engineExact_iff s).1 h
  have hended (i : Job) (hi : i ≠ .cellDrain c) : s.job = some i ↔ none = some i := by simp [hjob, hi.symm]
  obtain ⟨hb, hcells, hports⟩ := quiet_closeCell s c
  have hchosen : (s.closeCell c).chosen = none :=
    (congrArg Background.chosen hb).trans (hs.busy (by simp [hjob]))
  refine DrainsExact.chooseJob (s := { s.closeCell c with job := none })
    ⟨fun o => (hd.ports o).congr (hports o) (hended _ (by simp)), fun d => ?_,
      fun j hj => absurd (hchosen.symm.trans hj) (by simp)⟩
  have hclosed : ((s.modCell c fun k => { k with state := .closed, level := 0 }).cell d).drainExact
      (none = some (Job.cellDrain d)) := by
    rw [State.cell_modCell]
    split
    · next hc =>
      subst hc
      have hflag : (s.cell d).drainFlag ≠ true := fun hf => (hd.cells d).2 ⟨hf, hjob⟩
      exact ⟨by simp [hflag], by simp⟩
    · next hc => exact (hd.cells d).congr rfl (hended _ (by simpa using hc))
  exact hclosed.congr (hcells d) Iff.rfl

/-! ### Resets and cell commands -/

theorem State.engineExact.tableReset {s : State} (h : s.engineExact) : s.resetTable.engineExact := by
  obtain ⟨hd, -⟩ := (engineExact_iff s).1 h
  have hports (p : PortIx) : (s.resetTable.port p).drainExact (none = some (Job.portDrain p)) := by
    rw [State.port_resetTable]
    refine ⟨?_, fun ⟨_, hrun⟩ => (nomatch hrun), (hd.ports p).2.2⟩
    show (s.port p).state = .draining ↔ decide ((s.port p).state = .draining) = true ∨ none = some (Job.portDrain p)
    simp
  have hcells (c : CellIx) : (s.resetTable.cell c).drainExact (none = some (Job.cellDrain c)) := by
    rw [State.cell_resetTable]
    refine ⟨?_, by simp⟩
    show (if (s.cell c).state = .draining then CellState.closed else (s.cell c).state) = .draining ↔ false = true ∨ _
    split <;> simp_all
  obtain ⟨x, hx, hjob, hchosen⟩ : ∃ x : State, s.resetTable = x.chooseJob ∧ x.job = none ∧ x.chosen = none := ⟨_, rfl, rfl, rfl⟩
  rw [hx] at hports hcells ⊢
  refine DrainsExact.chooseJob ⟨?_, ?_, fun j hj => absurd (hchosen.symm.trans hj) (by simp)⟩
  · rw [hjob]
    exact hports
  · rw [hjob]
    exact hcells

/-- A cell that enters DRAINING has its flag set, and the engine looks for a job (R27, R140). -/
theorem State.engineExact.draining {s : State} (h : s.engineExact) {c : CellIx} (hc : (s.cell c).state ≠ .draining) :
    ((s.commandDone c .draining).modCell c fun k => { k with drainFlag := true }).chooseJob.engineExact := by
  obtain ⟨hd, -⟩ := (engineExact_iff s).1 h
  have hcell (d : CellIx) : (((s.commandDone c .draining).modCell c fun k => { k with drainFlag := true }).cell d)
      = if d = c then { s.cell c with state := .draining, result := .done, drainFlag := true } else s.cell d := by
    unfold State.commandDone
    rw [State.modCell_modCell, State.cell_modCell]
  refine DrainsExact.chooseJob ⟨hd.ports, fun d => ?_, fun j hj => ?_⟩
  · rw [hcell d]
    split
    · next hdc =>
      subst hdc
      exact ⟨⟨fun _ => .inl rfl, fun _ => rfl⟩, fun ⟨_, hrun⟩ => hd.cell_not_running hc hrun⟩
    · exact hd.cells d
  · have hset := hd.choice j hj
    cases j with
    | portDrain o => exact hset
    | cellDrain d =>
      show ((((s.commandDone c .draining).modCell c fun k => { k with drainFlag := true }).cell d)).drainFlag = true
      rw [hcell d]
      split
      · rfl
      · exact hset

/-- A drain that is stopped is neither pending nor in progress nor chosen any more (R145). -/
theorem State.engineExact.stopped {s : State} (h : s.engineExact) (c : CellIx) :
    (((s.commandDone c .barred).modCell c fun k => { k with drainFlag := false }).dropJob (.cellDrain c)).engineExact := by
  obtain ⟨hd, -⟩ := (engineExact_iff s).1 h
  have hcell (d : CellIx) : (((s.commandDone c .barred).modCell c fun k => { k with drainFlag := false }).cell d)
      = if d = c then { s.cell c with state := .barred, result := .done, drainFlag := false } else s.cell d := by
    unfold State.commandDone
    rw [State.modCell_modCell, State.cell_modCell]
  have hjob (i : Job) (hi : i ≠ .cellDrain c) :
      s.job = some i ↔ (if s.job = some (.cellDrain c) then none else s.job) = some i := by
    split
    · next hj => simp [hj, hi.symm]
    · rfl
  refine DrainsExact.chooseJob ⟨fun o => (hd.ports o).congr rfl (hjob _ (by simp)), fun d => ?_, fun j hj => ?_⟩
  · show ((((s.commandDone c .barred).modCell c fun k => { k with drainFlag := false }).cell d)).drainExact
      ((if s.job = some (.cellDrain c) then none else s.job) = some (.cellDrain d))
    rw [hcell d]
    split
    · next hdc =>
      subst hdc
      refine ⟨?_, by simp⟩
      split <;> simp_all
    · next hdc => exact (hd.cells d).congr rfl (hjob _ (by simpa using hdc))
  · have hkept : (if s.chosen = some (.cellDrain c) then none else s.chosen) = some j := hj
    split at hkept
    · cases hkept
    · next hne =>
      have hset := hd.choice j hkept
      cases j with
      | portDrain o => exact hset
      | cellDrain d =>
        show ((((s.commandDone c .barred).modCell c fun k => { k with drainFlag := false }).cell d)).drainFlag = true
        rw [hcell d]
        split
        · next hdc => exact absurd (hdc ▸ hkept) hne
        · exact hset

theorem State.engineExact.recompute {s : State} (h : s.engineExact) (c : CellIx) : (s.recompute c).engineExact :=
  h.quiet (still_recompute s c).quiet

theorem State.engineExact.storePart {s : State} (h : s.engineExact) (f : Field) (part : Part) (b : Byte) :
    (s.storePart f part b).engineExact := by
  cases part with
  | whole =>
    simp only [State.storePart, State.storeByte]
    split
    · exact h.modCell _ _ Iff.rfl rfl
    all_goals exact h
  | high =>
    simp only [State.storePart]
    split <;> exact h
  | low =>
    simp only [State.storePart, State.storeHalf]
    split <;> exact h

theorem engineExact_reset : State.reset.engineExact := by
  refine ⟨fun h => absurd rfl h, fun _ _ => ⟨fun p => ?_, fun c => ?_⟩, fun p => ?_, fun c => ?_⟩
  · rw [State.port_reset]; rfl
  · rw [State.cell_reset]; rfl
  · rw [State.port_reset]
    exact ⟨fun h => (nomatch h), by simp [Port.reset, State.reset], by simp [Port.reset], fun _ => ⟨rfl, rfl⟩⟩
  · rw [State.cell_reset]
    exact ⟨fun h => (nomatch h), by simp [Cell.reset, State.reset], by simp [Cell.reset]⟩

theorem State.watched_up {s : State} {p : PortIx} (h : s.watched p = true) : (s.port p).state = .up := by
  unfold State.watched at h
  simp only [Bool.and_eq_true, decide_eq_true_eq] at h
  exact h.1

theorem keepsEvents_engine : KeepsEvents State.engineExact where
  toKeepsTables := KeepsTables.of_quiet fun hq h => h.quiet hq
  handedOver {_ l p _} h _ := h.handOver l p
  answered p _ _ h := h.modPort_same p _ rfl
  discarded p h := State.engineExact.modPort_same h p (fun q => { q with errorCount := min 65535 (q.errorCount + 1) }) rfl
  arrived p r h := h.acceptFrame p r
  sent {s p _ rest} bytes _ h _ := State.engineExact.modPort_same h p (fun q => { q with transmit := rest, sent := bytes }) rfl
  withdrawn {s l p r} h hc := by
    have hup := h.up_of_choice hc
    have hanswered : ((s.handOver l p).answer p r (bare .ok)).engineExact :=
      (h.handOver l p).modPort_same p _ rfl
    have hstate : (((s.handOver l p).answer p r (bare .ok)).port p).state = (s.port p).state := by
      unfold State.answer State.handOver
      rw [State.port_modPort_self, State.port_modPort_self]
      cases l <;> rfl
    exact hanswered.enterDraining (by simp [hstate, hup])
  expired h hw := h.enterDraining (by simp [State.watched_up hw])
  pulseEnded {s p} h _ := h.quiet (quiet_endPulse s p)
  begun h hjob hnext := h.begun hjob hnext
  cellDrained h hjob _ := h.cellDrained hjob
  portDrained h hjob _ := h.portDrained hjob
  accessed _ _ _ _ h := h
  tableOpened h := h
  tableReset h := h.tableReset
  opened {_ c} h hc :=
    (h.modCell c (fun k => { k with state := .opened, result := .done }) (by simp [hc]) rfl).recompute c
  barred {_ c} h hc := h.modCell c (fun k => { k with state := .barred, result := .done }) (by simp [hc]) rfl
  unbarred {_ c} h hc := h.modCell c (fun k => { k with state := .opened, result := .done }) (by simp [hc]) rfl
  draining h hc := h.draining (by rcases hc with hc | hc <;> simp [hc])
  stopped {_ c} h _ := h.stopped c
  refused c h := h.modCell c (fun k => { k with result := .refused }) Iff.rfl rfl
  watchRestarted {s} h := by
    refine h.congr rfl rfl (fun p => ?_) fun _ => rfl
    rw [State.port_restartSupervision]
    split <;> rfl
  attention {s} p b h := by
    refine h.modPort_same p _ ?_
    have hmode : ((s.port p).takeMode b).engineSide = (s.port p).engineSide := by
      unfold Port.takeMode
      split <;> rfl
    rw [Port.writeAttention_eq, ← hmode]
    have hside := Port.engineSide_of_side (r := { (s.port p).takeMode b with attnEnable := b.getLsbD 0 })
      (Port.writeEnable_side ((s.port p).takeMode b) s.tick (b.getLsbD 0))
    exact hside
  pulseWidth p b h := by
    refine h.modPort_same p _ ?_
    unfold Port.writePulseWidth
    split <;> rfl
  ringSize p b h := by
    refine h.modPort_same p _ ?_
    unfold Port.writeRingSize
    split <;> rfl
  eventsSet _ _ h := h

theorem keepsAll_engine : KeepsAll State.engineExact where
  toKeepsEvents := keepsEvents_engine
  pinReset _ := engineExact_reset
  ticked _ _ h := h
  stored f part b h := h.storePart f part b
  capacity {_ c v} h _ := (h.modCell c (fun k => { k with capacity := v }) Iff.rfl rfl).recompute c
  floor {_ c v} h _ := h.modCell c (fun k => { k with floor := v }) Iff.rfl rfl
  threshold1 c v h := (h.modCell c (fun k => { k with t1 := clampThreshold v }) Iff.rfl rfl).recompute c
  threshold2 c v h := (h.modCell c (fun k => { k with t2 := clampThreshold v }) Iff.rfl rfl).recompute c
  threshold3 c v h := (h.modCell c (fun k => { k with t3 := clampThreshold v }) Iff.rfl rfl).recompute c
  owner {_ c} p h _ _ := h.modCell c (fun k => { k with owner := p }) Iff.rfl rfl
  depthLimit c v h := h.modCell c (fun k => { k with depthLimit := min 64 v }) Iff.rfl rfl
  reweighed {s} v h := by
    refine h.congr rfl rfl (fun _ => rfl) fun c => ?_
    have hc : (s.reweigh (min 4095 v)).cell c = { s.cell c with queue := ((s.reweigh (min 4095 v)).cell c).queue } := by
      simp [State.reweigh, State.cell, State.reorderQueue]
    rw [hc]
    rfl
  supervision _ h := h

/-- Settles O9, by the events that move settings, lanes, drain flags and the engine's choice. -/
theorem settingsAndLanesStayInRange : Obligations.SettingsAndLanesStayInRange := by
  refine ⟨fun s t hrange hlanes hstep => ?_, fun s t h hstep => keepsAll_engine.step (fun _ h => h) h hstep⟩
  exact (settingsSound_iff t).1 (((settingsSound_iff s).2 ⟨hrange, hlanes⟩).step hstep)

end Sys2Proof.Machine
end

section
/-! What the events inside the tables do to notices: beside raising and fetching them they leave ports, pending notices and
pending LEVEL entries alone. A predicate that speaks of these alone need only be checked of the raisings and of Fetch. -/

namespace Sys2Proof.Machine

/-! ### Changes that raise no notice -/

/-- The ports, the pending notices of records, and the pending LEVEL entries and owners of cells are as they were. -/
structure Unnoticed (s t : State) : Prop where
  ports : t.ports = s.ports
  records : ∀ i, (t.record i).pending = (s.record i).pending
  cells : ∀ c, (t.cell c).pendingLevel = (s.cell c).pendingLevel ∧ (t.cell c).owner = (s.cell c).owner

theorem Unnoticed.refl (s : State) : Unnoticed s s := ⟨rfl, fun _ => rfl, fun _ => ⟨rfl, rfl⟩⟩

theorem Unnoticed.trans {s t u : State} (h1 : Unnoticed s t) (h2 : Unnoticed t u) : Unnoticed s u :=
  ⟨h2.ports.trans h1.ports, fun i => (h2.records i).trans (h1.records i),
    fun c => ⟨(h2.cells c).1.trans (h1.cells c).1, (h2.cells c).2.trans (h1.cells c).2⟩⟩

theorem Unnoticed.modCell (s : State) (c : CellIx) (f : Cell → Cell)
    (hf : ∀ k, (f k).pendingLevel = k.pendingLevel ∧ (f k).owner = k.owner) : Unnoticed s (s.modCell c f) := by
  refine ⟨rfl, fun _ => rfl, fun d => ?_⟩
  rw [State.cell_modCell]
  split
  · next hd => rw [hd]; exact hf _
  · exact ⟨rfl, rfl⟩

theorem Unnoticed.setLive (s : State) (i : Nat) (ses : Session) (st : Stage) : Unnoticed s (s.setLive i ses st) := by
  refine ⟨rfl, fun j => ?_, fun _ => ⟨rfl, rfl⟩⟩
  rw [State.record_setLive]
  split
  · next hj => rw [hj]
  · rfl

theorem Unnoticed.store (s : State) (directory : List (Nat × Handle)) (freeList : List Nat) :
    Unnoticed s { s with directory := directory, freeList := freeList } := ⟨rfl, fun _ => rfl, fun _ => ⟨rfl, rfl⟩⟩

theorem Unnoticed.addA (s : State) (c : CellIx) (d : Nat) : Unnoticed s (s.addA c d) := .modCell s c _ (by intro k; exact ⟨rfl, rfl⟩)
theorem Unnoticed.subA (s : State) (c : CellIx) (d : Nat) : Unnoticed s (s.subA c d) := .modCell s c _ (by intro k; exact ⟨rfl, rfl⟩)
theorem Unnoticed.addC (s : State) (c : CellIx) (d : Nat) : Unnoticed s (s.addC c d) := .modCell s c _ (by intro k; exact ⟨rfl, rfl⟩)
theorem Unnoticed.subC (s : State) (c : CellIx) (d : Nat) : Unnoticed s (s.subC c d) := .modCell s c _ (by intro k; exact ⟨rfl, rfl⟩)
theorem Unnoticed.addR (s : State) (c : CellIx) (d : Nat) : Unnoticed s (s.addR c d) := .modCell s c _ (by intro k; exact ⟨rfl, rfl⟩)
theorem Unnoticed.subR (s : State) (c : CellIx) (d : Nat) : Unnoticed s (s.subR c d) := .modCell s c _ (by intro k; exact ⟨rfl, rfl⟩)

theorem Unnoticed.leaveRank (s : State) (c : CellIx) (i : Nat) : Unnoticed s (s.leaveRank c i) :=
  .modCell s c _ (by intro k; exact ⟨rfl, rfl⟩)

theorem Unnoticed.leaveQueue (s : State) (c : CellIx) (i : Nat) : Unnoticed s (s.leaveQueue c i) :=
  .modCell s c _ (by intro k; exact ⟨rfl, rfl⟩)

theorem Unnoticed.countSetup (s : State) (c : CellIx) (i : Nat) (ses : Session) : Unnoticed s (s.countSetup c i ses) := by
  refine (Unnoticed.addA s c ses.demand).trans ?_
  unfold State.countSetup State.joinRank
  split
  · exact .modCell _ c _ (by intro k; exact ⟨rfl, rfl⟩)
  · exact .refl _

theorem Unnoticed.takeRecord (s : State) (ses : Session) (st : Stage) : Unnoticed s (s.takeRecord ses st) := by
  cases hf : s.freeList with
  | nil => simpa [State.takeRecord, hf] using Unnoticed.refl s
  | cons i rest =>
    obtain ⟨⟨-, hself, -⟩, hkept, -, hcells, hports, -⟩ := s.takeRecord_taken ses st i rest hf
    refine ⟨hports, fun j => ?_, fun c => by rw [State.cell, hcells]; exact ⟨rfl, rfl⟩⟩
    by_cases hj : j = i
    · rw [hj, hself]
    · rw [hkept j (by simpa using hj)]

theorem Unnoticed.retire (s : State) (i : Nat) : Unnoticed s (s.retire i) := by
  cases hl : s.liveAt i with
  | none => simpa [State.retire, hl] using Unnoticed.refl s
  | some x =>
    obtain ⟨⟨hself, -, -⟩, hkept, hcell, hcells, hports, -⟩ := State.retire_retiredFrom s i x.1 x.2 hl
    refine ⟨hports, fun j => ?_, fun c => ?_⟩
    · by_cases hj : j = i
      · rw [hj, hself]
      · rw [hkept j (by simpa using hj)]
    · by_cases hc : c = x.1.key.cell
      · rw [hc, hcell]
        exact ⟨rfl, rfl⟩
      · rw [hcells c (by simpa using hc)]
        exact ⟨rfl, rfl⟩

theorem Record.unbound_pending (r : Record) : r.unbound.pending = r.pending := by
  unfold Record.unbound
  split <;> rfl

theorem Unnoticed.unbindAll (s : State) (hs : List Handle) : Unnoticed s (s.unbindAll hs) := by
  refine ⟨State.unbindAll_ports .., fun j => ?_, fun c => by rw [State.unbindAll_cell]; exact ⟨rfl, rfl⟩⟩
  rw [State.unbindAll_record]
  split
  · exact Record.unbound_pending _
  · rfl

/-! ### The induction over the events inside the tables -/

/-- A predicate is kept by every change that raises no notice, by the raisings and by Fetch. -/
structure KeepsNotices (P : State → Prop) : Prop where
  unnoticed {s t : State} : Unnoticed s t → P s → P t
  raisedSession {s : State} (i : Nat) (kind : SessionNotice) (cause : Cause) : P s → P (s.raiseSession i kind cause)
  raisedLevel {s : State} (c : CellIx) : P s → P (s.raiseLevel c)
  fetched {s : State} (p : PortIx) (k : Nat) : P s → P (s.fetchNotices p k).2

section
variable {P : State → Prop} {s : State}

theorem KeepsNotices.recompute (k : KeepsNotices P) (h : P s) (c : CellIx) : P (s.recompute c) := by
  have hformed : P (s.modCell c Cell.recomputed) := k.unnoticed (.modCell s c _ (by intro k; exact ⟨rfl, rfl⟩)) h
  unfold State.recompute
  dsimp only
  split
  · exact hformed
  · exact k.raisedLevel c hformed

theorem KeepsNotices.closeCell (k : KeepsNotices P) (h : P s) (c : CellIx) : P (s.closeCell c) := by
  have hclosed : P (s.modCell c fun k => { k with state := .closed, level := 0 }) :=
    k.unnoticed (.modCell s c _ (by intro k; exact ⟨rfl, rfl⟩)) h
  unfold State.closeCell
  dsimp only
  split
  · exact hclosed
  · exact k.raisedLevel c hclosed

theorem KeepsNotices.takeVictims (k : KeepsNotices P) (h : P s) (rq : Handle) (c : CellIx) (vs : List Nat) :
    P (s.takeVictims rq c vs) := by
  unfold State.takeVictims
  induction vs generalizing s with
  | nil => exact h
  | cons i rest ih =>
    refine ih ?_
    unfold State.takeVictim
    split
    · refine k.raisedSession _ _ _ (k.unnoticed ?_ h)
      exact (((Unnoticed.leaveRank ..).trans (.subA ..)).trans (.addC ..)).trans (.setLive ..)
    · exact h

theorem KeepsNotices.promote (k : KeepsNotices P) (h : P s) (c : CellIx) (i : Nat) (ses : Session) (vs : List Handle)
    (need reserved : Nat) : P (s.promote c i ses vs need reserved) :=
  k.raisedSession _ _ _ (k.unnoticed ((((Unnoticed.subR ..).trans (.unbindAll ..)).trans (.setLive ..)).trans (.countSetup ..)) h)

theorem KeepsNotices.passUnits (k : KeepsNotices P) (h : P s) (c : CellIx) (victim : Handle) (v : Nat) (b : Handle) :
    P (s.passUnits c victim v b) := by
  unfold State.passUnits
  split
  · split
    · dsimp only
      split
      · exact k.promote (k.unnoticed ((Unnoticed.addR ..).trans (.setLive ..)) h) ..
      · exact k.unnoticed ((Unnoticed.addR ..).trans (.setLive ..)) h
    · exact h
  · exact h

theorem KeepsNotices.victimExit (k : KeepsNotices P) (h : P s) (i : Nat) (ses : Session) (b : Option Handle) :
    P (s.victimExit i ses b) := by
  have hsub : P (s.subC ses.key.cell ses.demand) := k.unnoticed (.subC ..) h
  unfold State.victimExit
  cases b with
  | none => exact k.recompute hsub _
  | some b => exact k.recompute (k.passUnits hsub ..) _

theorem KeepsNotices.giveUp (k : KeepsNotices P) (h : P s) (i : Nat) (ses : Session) (st : Stage) : P (s.giveUp i ses st) := by
  cases st with
  | queued => exact h
  | held vs need reserved collected =>
    have hfree : P ((s.subR ses.key.cell (reserved + collected)).unbindAll vs) :=
      k.unnoticed ((Unnoticed.subR ..).trans (.unbindAll ..)) h
    show P (s.withdrawHeld ses vs reserved collected)
    unfold State.withdrawHeld
    dsimp only
    split
    · exact hfree
    · exact k.recompute hfree _
  | setup | active => exact k.recompute (k.unnoticed (.subA ..) h) _
  | ceding stamp b deadline => exact k.victimExit h i ses b

theorem KeepsNotices.retire (k : KeepsNotices P) (h : P s) (i : Nat) : P (s.retire i) := k.unnoticed (.retire s i) h

/-- A predicate that speaks of notices alone is kept by the events inside the tables. -/
theorem KeepsNotices.tables (k : KeepsNotices P) : KeepsTables P where
  raised := k.raisedSession
  retired h _ ht := by
    rcases ht with rfl | ⟨kind, cause, rfl⟩
    · exact k.retire (k.giveUp h ..) _
    · exact k.retire (k.raisedSession _ _ _ (k.giveUp h ..)) _
  displaced h _ := k.retire (k.raisedSession _ _ _ h) _
  served h _ _ := by
    refine k.recompute (k.raisedSession _ _ _ (k.unnoticed ?_ h)) _
    exact ((Unnoticed.leaveQueue ..).trans (.setLive ..)).trans (.countSetup ..)
  heldHead h _ _ _ _ := by
    refine k.recompute (k.unnoticed ((Unnoticed.setLive ..).trans (.addR ..)) (k.takeVictims ?_ ..)) _
    exact k.unnoticed (.leaveQueue ..) h
  admitted h _ := k.recompute (k.unnoticed ((Unnoticed.takeRecord ..).trans (.countSetup ..)) h) _
  preempted h _ _ _ := k.recompute (k.unnoticed ((Unnoticed.takeRecord ..).trans (.addR ..)) (k.takeVictims h ..)) _
  enqueued {s ses} h _ := by
    refine k.unnoticed ((Unnoticed.takeRecord s ses (s.queuedStage ses)).trans ?_) h
    unfold State.enqueue
    exact .modCell _ _ _ (by intro k; exact ⟨rfl, rfl⟩)
  confirmed h _ := k.unnoticed (.setLive ..) h
  tagged _ h _ := k.unnoticed (.setLive ..) h
  decreased h _ _ _ _ := k.recompute (k.unnoticed ((Unnoticed.setLive ..).trans (.subA ..)) h) _
  increased h _ _ _ := k.recompute (k.unnoticed ((Unnoticed.setLive ..).trans (.addA ..)) h) _
  moved h _ _ _ := by
    refine k.recompute (k.recompute (k.unnoticed ?_ h) _) _
    exact (((((Unnoticed.subA ..).trans (.leaveRank ..)).trans (.store ..)).trans (.setLive ..)).trans (.store ..)).trans
      (.countSetup ..)
  fetched := k.fetched

end

end Sys2Proof.Machine
end

section
/-! Proof that every step keeps rings within their sizes, backlogs behind full rings, attention lines as their settings make
them, and DRAINING ports without a notice (9.3, 9.4, 9.6, 8.4). -/

namespace Sys2Proof.Machine

/-! ### The attention line -/

/-- The part of R160 and R161 that does not look at the ring. -/
def Port.attnRuns (q : Port) : Prop :=
  if q.attnEnable then
    if q.attnPulse then q.attnLine = q.pulseStop.isSome else q.pulseStop = none
  else q.attnLine = false ∧ q.pulseStop = none

theorem Port.attnFollows.runs {q : Port} (h : q.attnFollows) : q.attnRuns := by
  unfold Port.attnFollows at h
  unfold Port.attnRuns
  split at h
  · split at h
    · next he hp => rw [if_pos he, if_pos hp]; exact h
    · next he hp => rw [if_pos he, if_neg hp]; exact h.2
  · next he => rw [if_neg he]; exact h

/-- The line that follows a change of the ring is what the ring and the settings make it (R160, R161). -/
theorem Port.attnRuns.followRing {q : Port} (h : q.attnRuns) (now : Tick) (before : Nat) :
    (q.followRing now before).attnFollows := by
  unfold Port.attnRuns at h
  unfold Port.followRing
  split at h
  · next he =>
    rw [if_pos he]
    split at h
    · next hp =>
      rw [if_pos hp]
      split <;> simp [Port.attnFollows, he, hp, h]
    · next hp =>
      rw [if_neg hp]
      simp [Port.attnFollows, he, hp, h]
  · next he =>
    rw [if_neg he]
    simp [Port.attnFollows, he, h.2]

/-- A ring that stays empty leaves a deasserted line deasserted. -/
theorem Port.followRing_deasserted {q : Port} (hring : q.ring = []) (hline : q.attnLine = false) (now : Tick) (before : Nat) :
    (q.followRing now before).attnLine = false := by
  unfold Port.followRing
  split
  · split
    · split
      · next h => simp [hring] at h
      · exact hline
    · simp [hring]
  · rfl

/-! ### One port -/

/-- The ring within its size and the backlog behind a full ring; the line as it must be; nothing at a DRAINING port. -/
structure Port.noticesBounded (q : Port) : Prop where
  bounded : q.ringBounded
  follows : q.attnFollows
  drained : q.drainingEmpty

/-- A port whose ring was changed, with its line brought up to date. -/
theorem Port.noticesBounded.of_followRing {q : Port} (hbounded : q.ringBounded) (hruns : q.attnRuns)
    (hdrained : q.drainingEmpty) (now : Tick) (before : Nat) : (q.followRing now before).noticesBounded := by
  refine ⟨?_, hruns.followRing now before, fun hst => ?_⟩
  · unfold Port.ringBounded
    rw [Port.followRing_ring, Port.followRing_backlog, Port.side_ringSize (Port.followRing_side q now before)]
    exact hbounded
  · obtain ⟨hring, hbacklog, hline⟩ := hdrained ((Port.side_state (Port.followRing_side q now before)).symm.trans hst)
    rw [Port.followRing_ring, Port.followRing_backlog]
    exact ⟨hring, hbacklog, Port.followRing_deasserted hring hline now before⟩

theorem Port.noticesBounded.pushRing {q : Port} (h : q.noticesBounded) (hst : q.state ≠ .draining) (hroom : 0 < q.room)
    (now : Tick) (n : Notice) : (q.pushRing now n).noticesBounded := by
  obtain ⟨⟨hlen, hfull⟩, hfollows, -⟩ := h
  unfold Port.room at hroom
  split at hroom
  · next hb =>
    refine Port.noticesBounded.of_followRing (q := { q with ring := q.ring ++ [n] }) ⟨?_, fun hn => absurd hb hn⟩
      hfollows.runs (fun h => absurd h hst) _ _
    have hroom : q.ring.length < q.ringSize := by omega
    exact (List.length_append ..).trans_le hroom
  · exact absurd hroom (Nat.lt_irrefl 0)

theorem Port.noticesBounded.pushBacklog {q : Port} (h : q.noticesBounded) (hst : q.state ≠ .draining) (hroom : q.room = 0)
    (es : List BacklogEntry) : ({ q with backlog := q.backlog ++ es } : Port).noticesBounded := by
  obtain ⟨⟨hlen, hfull⟩, hfollows, -⟩ := h
  refine ⟨⟨hlen, fun _ => ?_⟩, hfollows, fun h => absurd h hst⟩
  unfold Port.room at hroom
  split at hroom
  · exact Nat.le_antisymm hlen (Nat.sub_eq_zero_iff_le.1 hroom)
  · next hb => exact hfull hb

theorem Port.noticesBounded.endPulse {q : Port} (h : q.noticesBounded) {now : Tick} (hdue : q.pulseDue now = true) :
    q.endPulse.noticesBounded := by
  obtain ⟨hbounded, hfollows, hdrained⟩ := h
  have hstop : q.pulseStop = some now := by simpa [Port.pulseDue] using hdue
  refine ⟨hbounded, ?_, fun hst => ⟨(hdrained hst).1, (hdrained hst).2.1, rfl⟩⟩
  unfold Port.attnFollows at hfollows
  split at hfollows
  · next he =>
    split at hfollows
    · next hp => simp [Port.endPulse, Port.attnFollows, he, hp]
    · simp [hstop] at hfollows
  · simp [hstop] at hfollows

theorem Port.noticesBounded.cleared {q : Port} (st : PortState) : ({ q.clearRing with state := st, backlog := [] } : Port).noticesBounded := by
  refine ⟨⟨Nat.zero_le _, fun hn => absurd rfl hn⟩, ?_, fun _ => ⟨rfl, rfl, rfl⟩⟩
  unfold Port.attnFollows
  split
  · split
    · rfl
    · exact ⟨rfl, rfl⟩
  · exact ⟨rfl, rfl⟩

theorem Port.noticesBounded.writeAttention {q : Port} (h : q.noticesBounded) (now : Tick) (b : Byte) :
    (q.writeAttention now b).noticesBounded := by
  have hmode : (q.takeMode b).noticesBounded := by
    obtain ⟨hbounded, hfollows, hdrained⟩ := h
    unfold Port.takeMode
    split
    · exact ⟨hbounded, hfollows, hdrained⟩
    · next he =>
      unfold Port.attnFollows at hfollows
      rw [if_neg he] at hfollows
      refine ⟨hbounded, ?_, hdrained⟩
      simp [Port.attnFollows, he, hfollows]
  rw [Port.writeAttention_eq]
  obtain ⟨hbounded, hfollows, hdrained⟩ := hmode
  unfold Port.writeEnable
  split
  · exact ⟨hbounded, hfollows, hdrained⟩
  · next hchange =>
    split
    · next hset =>
      have hclear : (q.takeMode b).attnEnable = false := by
        rw [hset] at hchange
        exact Bool.eq_false_iff.2 fun he => hchange he.symm
      unfold Port.attnFollows at hfollows
      rw [hclear] at hfollows
      obtain ⟨hline, hstop⟩ : (q.takeMode b).attnLine = false ∧ (q.takeMode b).pulseStop = none := hfollows
      refine Port.noticesBounded.of_followRing (q := { q.takeMode b with attnEnable := true }) hbounded ?_ hdrained now 0
      simp [Port.attnRuns, hline, hstop]
    · exact ⟨hbounded, by simp [Port.attnFollows], fun hst => ⟨(hdrained hst).1, (hdrained hst).2.1, rfl⟩⟩

theorem Port.noticesBounded.writeRingSize {q : Port} (h : q.noticesBounded) (b : Byte) : (q.writeRingSize b).noticesBounded := by
  unfold Port.writeRingSize
  split
  · next hempty =>
    obtain ⟨-, hring, hbacklog⟩ := hempty
    refine ⟨⟨?_, fun hn => absurd hbacklog hn⟩, h.follows, h.drained⟩
    rw [hring]
    exact Nat.zero_le _
  · exact h

theorem Port.noticesBounded.writePulseWidth {q : Port} (h : q.noticesBounded) (b : Byte) : (q.writePulseWidth b).noticesBounded := by
  unfold Port.writePulseWidth
  split
  · exact h
  · exact ⟨h.bounded, h.follows, h.drained⟩

/-! ### All ports -/

/-- Every port keeps its notices within bounds. -/
structure NoticesBounded (s : State) : Prop where
  ports : ∀ p, (s.port p).noticesBounded

theorem NoticesBounded.congr {s t : State} (h : NoticesBounded s) (ht : t.ports = s.ports) : NoticesBounded t := by
  refine ⟨fun p => ?_⟩
  rw [State.port, ht]
  exact h.ports p

theorem NoticesBounded.modPort {s : State} (h : NoticesBounded s) (p : PortIx) (f : Port → Port)
    (hf : (s.port p).noticesBounded → (f (s.port p)).noticesBounded) : NoticesBounded (s.modPort p f) :=
  ⟨State.forall_port_modPort h.ports p f hf⟩

/-- A change of a port beside its state, ring, backlog, line and settings. -/
theorem NoticesBounded.modPort_same {s : State} (h : NoticesBounded s) (p : PortIx) (f : Port → Port)
    (hf : ({ f (s.port p) with
      urgentLane := (s.port p).urgentLane, normalLane := (s.port p).normalLane, transmit := (s.port p).transmit
      sent := (s.port p).sent, errorCount := (s.port p).errorCount, timestamp := (s.port p).timestamp
      drainFlag := (s.port p).drainFlag } : Port) = s.port p) : NoticesBounded (s.modPort p f) := by
  refine h.modPort p f fun hq => ?_
  rw [← hf] at hq
  exact ⟨hq.bounded, hq.follows, hq.drained⟩

theorem NoticesBounded.raiseSession {s : State} (h : NoticesBounded s) (i : Nat) (kind : SessionNotice) (cause : Cause) :
    NoticesBounded (s.raiseSession i kind cause) := by
  cases hl : s.liveAt i with
  | none => simpa [State.raiseSession, hl] using h
  | some x =>
    rcases State.raiseSession_cases s i kind cause x.1 x.2 hl _ rfl with ⟨-, he⟩ | ⟨hst, hroom, he⟩ | ⟨hst, hroom, he⟩
    · rwa [he]
    · rw [he]
      exact h.modPort _ _ fun hq => hq.pushRing hst hroom ..
    · rw [he]
      exact (h.congr rfl : NoticesBounded (s.setPending i _)).modPort _ _ fun hq => hq.pushBacklog hst hroom _

theorem NoticesBounded.raiseLevel {s : State} (h : NoticesBounded s) (c : CellIx) : NoticesBounded (s.raiseLevel c) := by
  rcases State.raiseLevel_cases s c _ rfl with ⟨-, he⟩ | ⟨hst, hroom, he⟩ | ⟨hst, hroom, he⟩
  · rwa [he]
  · rw [he]
    exact h.modPort _ _ fun hq => hq.pushRing hst hroom ..
  · rw [he]
    exact NoticesBounded.modPort (s := s.modCell c fun k => { k with pendingLevel := true }) (h.congr rfl) _ _
      fun hq => hq.pushBacklog hst hroom _

/-! ### Fetch -/

@[simp] theorem State.dropEntry_port (s : State) (e : BacklogEntry) (p : PortIx) : (s.dropEntry e).port p = s.port p := by
  have hports : (s.dropEntry e).ports = s.ports := (congrArg State.ports (s.dropEntry_frame e) :)
  rw [State.port, hports, State.port]

@[simp] theorem State.dropEntries_port (s : State) (es : List BacklogEntry) (p : PortIx) :
    (s.dropEntries es).port p = s.port p := by
  have hports : (s.dropEntries es).ports = s.ports := (congrArg State.ports (State.dropEntries_frame es s) :)
  rw [State.port, hports, State.port]

/-- A port's ring was filled from its backlog as far as it goes, and no other port changed (R158, step 2). -/
def RingRefilled (s t : State) (p : PortIx) : Prop :=
  ∃ ring backlog, (∀ o, t.port o = if o = p then { s.port p with ring := ring, backlog := backlog } else s.port o)
    ∧ ring.length ≤ (s.port p).ringSize ∧ (backlog ≠ [] → ring.length = (s.port p).ringSize)
    ∧ ((s.port p).backlog = [] → ring = (s.port p).ring ∧ backlog = [])

theorem RingRefilled.refl {s : State} {p : PortIx} (hlen : (s.port p).ring.length ≤ (s.port p).ringSize)
    (hdone : (s.port p).backlog ≠ [] → (s.port p).ring.length = (s.port p).ringSize) : RingRefilled s s p := by
  refine ⟨(s.port p).ring, (s.port p).backlog, fun o => ?_, hlen, hdone, fun hb => ⟨rfl, hb⟩⟩
  split
  · next ho => rw [ho]
  · rfl

/-- With fuel for the whole backlog the moves of a Fetch end at a full ring or an empty backlog. -/
theorem State.refillRing_refilled (p : PortIx) (fuel : Nat) (s : State) (hlen : (s.port p).ring.length ≤ (s.port p).ringSize)
    (hfuel : (s.port p).backlog.length ≤ fuel) : RingRefilled s (s.refillRing p fuel) p := by
  induction fuel generalizing s with
  | zero => exact .refl hlen fun hn => absurd (List.length_eq_zero_iff.1 (Nat.le_zero.1 hfuel)) hn
  | succ n ih =>
    unfold State.refillRing
    split
    · next hb => exact .refl hlen fun hn => absurd hb hn
    · next e rest hb =>
      split
      · next hroom =>
        have hmoved (o : PortIx) :
            ((s.modPort p fun q => { q with backlog := rest, ring := q.ring ++ (s.entryNotice e).toList }).dropEntry e).port o
              = if o = p then { s.port p with backlog := rest, ring := (s.port p).ring ++ (s.entryNotice e).toList }
                else s.port o := by
          rw [State.dropEntry_port, State.port_modPort]
        have hself := (hmoved p).trans (if_pos rfl)
        have hone : (s.entryNotice e).toList.length ≤ 1 := by cases s.entryNotice e <;> simp
        obtain ⟨ring, backlog, hports, hring, hbacklog, -⟩ := ih _ (by rw [hself]; exact (List.length_append ..).trans_le (show _ ≤ (s.port p).ringSize by omega))
          (by rw [hself]; rw [hb] at hfuel; exact Nat.le_of_succ_le_succ hfuel)
        rw [hself] at hports hring hbacklog
        refine ⟨ring, backlog, fun o => ?_, hring, hbacklog, fun hn => absurd hn (by simp [hb])⟩
        rw [hports o, hmoved o]
        split <;> rfl
      · next hroom => exact .refl hlen fun _ => Nat.le_antisymm hlen (Nat.le_of_not_lt hroom)

/-- A port whose ring was refilled and whose line follows it keeps its notices within bounds (R158, R160, R161). -/
theorem NoticesBounded.of_refilled {s t : State} {p : PortIx} (h : NoticesBounded s) (k before : Nat) (now : Tick)
    (ht : RingRefilled (s.modPort p fun q => { q with ring := q.ring.drop k }) t p) :
    NoticesBounded (t.modPort p fun q => q.followRing now before) := by
  obtain ⟨ring, backlog, hports, hring, hbacklog, hnone⟩ := ht
  rw [State.port_modPort_self] at hports hring hbacklog hnone
  refine ⟨fun o => ?_⟩
  rw [State.port_modPort]
  split
  · obtain ⟨-, hfollows, hdrained⟩ := h.ports p
    rw [hports p, if_pos rfl]
    refine Port.noticesBounded.of_followRing (q := { s.port p with ring := ring, backlog := backlog })
      ⟨hring, hbacklog⟩ hfollows.runs (fun hst => ?_) _ _
    obtain ⟨hr, hb, hline⟩ := hdrained hst
    obtain ⟨hring', hbacklog'⟩ := hnone hb
    exact ⟨by rw [hring']; exact (congrArg (List.drop k) hr).trans List.drop_nil, hbacklog', hline⟩
  · next ho =>
    rw [hports o, if_neg ho, State.port_modPort_ne _ _ _ _ ho]
    exact h.ports o

theorem NoticesBounded.fetchNotices {s : State} (h : NoticesBounded s) (p : PortIx) (k : Nat) :
    NoticesBounded (s.fetchNotices p k).2 := by
  refine h.of_refilled k (s.port p).ring.length s.tick (State.refillRing_refilled p _ _ ?_ le_rfl)
  rw [State.port_modPort_self]
  have hlen := (h.ports p).bounded.1
  exact (List.length_drop ..).trans_le ((Nat.sub_le ..).trans hlen)

theorem keepsNotices_bounded : KeepsNotices NoticesBounded where
  unnoticed hu h := h.congr hu.ports
  raisedSession i kind cause h := h.raiseSession i kind cause
  raisedLevel c h := h.raiseLevel c
  fetched p k h := h.fetchNotices p k

/-! ### Every event -/

theorem NoticesBounded.handOver {s : State} (h : NoticesBounded s) (l : Lane) (p : PortIx) : NoticesBounded (s.handOver l p) := by
  have hpointer : NoticesBounded (s.setPointer l p) := h.congr (by cases l <;> rfl)
  refine hpointer.modPort_same p _ ?_
  cases l <;> rfl

theorem NoticesBounded.enterDraining {s : State} (h : NoticesBounded s) (p : PortIx) : NoticesBounded (s.enterDraining p) := by
  have hports (o : PortIx) : (s.enterDraining p).port o
      = if o = p then { ((s.turnAway p).port p).clearRing with backlog := [], state := .draining, drainFlag := true }
        else s.port o := by
    rw [State.enterDraining_eq, State.chooseJob_port, State.port_modPort, State.clearNotices]
    split
    · rw [State.port_modPort_self, State.dropEntries_port]
    · next ho => rw [State.port_modPort_ne _ _ _ _ ho, State.dropEntries_port, State.turnAway, State.port_modPort_ne _ _ _ _ ho]
  refine ⟨fun o => ?_⟩
  rw [hports o]
  split
  · have hcleared := Port.noticesBounded.cleared (q := (s.turnAway p).port p) .draining
    exact ⟨hcleared.bounded, hcleared.follows, hcleared.drained⟩
  · exact h.ports o

theorem NoticesBounded.acceptFrame {s : State} (h : NoticesBounded s) (p : PortIx) (r : Request) :
    NoticesBounded (s.acceptFrame p r) := by
  unfold State.acceptFrame
  split
  · exact h.modPort_same p _ rfl
  · have hup : NoticesBounded (s.modPort p fun q => { q with state := .up, timestamp := s.tick }) :=
      h.modPort p _ fun hq => ⟨hq.bounded, hq.follows, fun hst => nomatch hst⟩
    unfold State.placeRequest
    split
    · refine hup.modPort_same p _ ?_
      cases r.lane <;> rfl
    · exact hup.modPort_same p _ rfl

theorem keepsEvents_bounded : KeepsEvents NoticesBounded where
  toKeepsTables := keepsNotices_bounded.tables
  handedOver h _ := h.handOver _ _
  answered p _ _ h := h.modPort_same p _ rfl
  discarded p h := NoticesBounded.congr (h.modPort_same p (fun q => { q with errorCount := min 65535 (q.errorCount + 1) }) rfl) rfl
  arrived p r h := h.acceptFrame p r
  sent {s p _ rest} bytes _ h _ :=
    NoticesBounded.congr (h.modPort_same p (fun q => { q with transmit := rest, sent := bytes }) rfl) rfl
  withdrawn {s l p r} h _ := NoticesBounded.enterDraining ((h.handOver l p).modPort_same p _ rfl) p
  expired {s p} h _ := NoticesBounded.congr (h.enterDraining p) rfl
  pulseEnded {s p} h hdue := h.modPort p _ fun hq => hq.endPulse hdue
  begun {s j} h _ _ := by
    cases j with
    | portDrain p => exact NoticesBounded.congr (h.modPort_same p (fun q => { q with drainFlag := false }) rfl) rfl
    | cellDrain c => exact h.congr rfl
  cellDrained {s c} h _ _ := NoticesBounded.congr (keepsNotices_bounded.closeCell h c) rfl
  portDrained {s p} h _ _ := by
    have hdown : NoticesBounded (s.modPort p fun q => { q with state := .down }) :=
      h.modPort p _ fun hq => ⟨hq.bounded, hq.follows, fun hst => nomatch hst⟩
    exact hdown.congr rfl
  accessed _ _ _ _ h := h.congr rfl
  tableOpened h := h.congr rfl
  tableReset {s} h := by
    refine ⟨fun p => ?_⟩
    rw [State.port_resetTable]
    have hcleared := Port.noticesBounded.cleared (q := s.port p) (s.port p).state
    exact ⟨hcleared.bounded, hcleared.follows, hcleared.drained⟩
  opened {s c} h _ := keepsNotices_bounded.recompute (s := s.commandDone c .opened) (h.congr rfl) c
  barred h _ := h.congr rfl
  unbarred h _ := h.congr rfl
  draining h _ := h.congr rfl
  stopped h _ := h.congr rfl
  refused _ h := h.congr rfl
  watchRestarted {s} h := by
    refine ⟨fun p => ?_⟩
    rw [State.port_restartSupervision]
    split
    · exact ⟨(h.ports p).bounded, (h.ports p).follows, (h.ports p).drained⟩
    · exact h.ports p
  attention p b h := h.modPort p _ fun hq => hq.writeAttention _ b
  pulseWidth p b h := h.modPort p _ fun hq => hq.writePulseWidth b
  ringSize p b h := h.modPort p _ fun hq => hq.writeRingSize b
  eventsSet _ _ h := h.congr rfl

theorem noticesBounded_reset : NoticesBounded State.reset := by
  refine ⟨fun p => ?_⟩
  rw [State.port_reset]
  exact ⟨⟨Nat.zero_le _, fun hn => absurd rfl hn⟩, ⟨rfl, rfl⟩, fun hst => nomatch hst⟩

theorem State.ports_storePart (s : State) (f : Field) (part : Part) (b : Byte) : (s.storePart f part b).ports = s.ports := by
  cases part with
  | whole =>
    simp only [State.storePart, State.storeByte]
    split <;> rfl
  | high =>
    simp only [State.storePart]
    split <;> rfl
  | low =>
    simp only [State.storePart, State.storeHalf]
    split <;> rfl

theorem keepsAll_bounded : KeepsAll NoticesBounded where
  toKeepsEvents := keepsEvents_bounded
  pinReset _ := noticesBounded_reset.congr rfl
  ticked _ _ h := h.congr rfl
  stored f part b h := h.congr (State.ports_storePart _ f part b)
  capacity {s c v} h _ := keepsNotices_bounded.recompute (s := s.modCell c fun k => { k with capacity := v }) (h.congr rfl) c
  floor h _ := h.congr rfl
  threshold1 {s} c v h :=
    keepsNotices_bounded.recompute (s := s.modCell c fun k => { k with t1 := clampThreshold v }) (h.congr rfl) c
  threshold2 {s} c v h :=
    keepsNotices_bounded.recompute (s := s.modCell c fun k => { k with t2 := clampThreshold v }) (h.congr rfl) c
  threshold3 {s} c v h :=
    keepsNotices_bounded.recompute (s := s.modCell c fun k => { k with t3 := clampThreshold v }) (h.congr rfl) c
  owner _ h _ _ := h.congr rfl
  depthLimit _ _ h := h.congr rfl
  reweighed _ h := h.congr rfl
  supervision _ h := h.congr rfl

/-- Settles O5: every event that changes a ring, a backlog, a line or its settings keeps them within bounds. -/
theorem noticeStoresStayBounded : Obligations.NoticeStoresStayBounded := by
  intro s t h hstep
  have hs : NoticesBounded s := ⟨fun p => ⟨(h p).1, (h p).2.1, (h p).2.2⟩⟩
  have ht : NoticesBounded t := keepsAll_bounded.step (fun _ h => h.congr rfl) hs hstep
  exact fun p => ⟨(ht.ports p).bounded, (ht.ports p).follows, (ht.ports p).drained⟩

end Sys2Proof.Machine
end

section
/-! Proof that every step keeps pending notices and pending LEVEL entries in exactly one backlog each (9.4, 1.2, 2.2). -/

namespace Sys2Proof.Machine

/-! ### Exact backlogs, in terms of entries -/

/-- What is pending stands in one backlog, once, a cell's entry in that of its owner. -/
structure BacklogExact (s : State) : Prop where
  pending : ∀ e, s.isPending e ↔ ∃ p, e ∈ (s.port p).backlog
  once : ∀ e p o, e ∈ (s.port p).backlog → e ∈ (s.port o).backlog → p = o
  owned : ∀ c p, .cell c ∈ (s.port p).backlog → p = (s.cell c).owner
  nodup : ∀ p, (s.port p).backlog.Nodup

theorem backlogExact_iff (s : State) : s.backlogExact ↔ BacklogExact s := by
  constructor
  · rintro ⟨hrec, honce, hcell, howned, hnodup⟩
    refine ⟨fun e => ?_, fun e p o hp ho => ?_, howned, hnodup⟩
    · cases e with
      | record i => exact hrec i
      | cell c => exact (hcell c).trans ⟨fun h => ⟨_, h⟩, fun ⟨p, hp⟩ => howned c p hp ▸ hp⟩
    · cases e with
      | record i => exact honce i p o hp ho
      | cell c => exact (howned c p hp).trans (howned c o ho).symm
  · rintro ⟨hpending, honce, howned, hnodup⟩
    exact ⟨fun i => hpending (.record i), fun i => honce (.record i),
      fun c => (hpending (.cell c)).trans ⟨fun ⟨p, hp⟩ => howned c p hp ▸ hp, fun h => ⟨_, h⟩⟩, howned, hnodup⟩

theorem BacklogExact.congr {s t : State} (h : BacklogExact s) (hports : ∀ p, (t.port p).backlog = (s.port p).backlog)
    (hpending : ∀ e, t.isPending e ↔ s.isPending e) (howner : ∀ c, (t.cell c).owner = (s.cell c).owner) : BacklogExact t := by
  refine ⟨fun e => ?_, fun e p o => ?_, fun c p => ?_, fun p => ?_⟩
  · simpa only [hports] using (hpending e).trans (h.pending e)
  · simpa only [hports] using h.once e p o
  · simpa only [hports, howner] using h.owned c p
  · simpa only [hports] using h.nodup p

/-- A change of one port beside its backlog. -/
theorem BacklogExact.modPort {s : State} (h : BacklogExact s) (p : PortIx) (f : Port → Port)
    (hf : (f (s.port p)).backlog = (s.port p).backlog) : BacklogExact (s.modPort p f) := by
  refine h.congr (fun o => ?_) (State.isPending_congr (fun _ => rfl) fun _ => rfl) fun _ => rfl
  rw [State.port_modPort]
  split
  · next ho => rw [hf, ho]
  · rfl

/-- A change of one cell beside its pending LEVEL entry and its owner. -/
theorem BacklogExact.modCell {s : State} (h : BacklogExact s) (c : CellIx) (f : Cell → Cell)
    (hf : ∀ k, (f k).pendingLevel = k.pendingLevel ∧ (f k).owner = k.owner) : BacklogExact (s.modCell c f) := by
  have hu := Unnoticed.modCell s c f hf
  exact h.congr (fun _ => rfl) (State.isPending_congr hu.records fun d => (hu.cells d).1) fun d => (hu.cells d).2

/-- An entry that was not pending joins a backlog's tail. -/
theorem BacklogExact.push {s t : State} (h : BacklogExact s) {p : PortIx} {e : BacklogEntry} (hnew : ¬ s.isPending e)
    (hports : ∀ o, (t.port o).backlog = if o = p then (s.port p).backlog ++ [e] else (s.port o).backlog)
    (hpending : ∀ x, t.isPending x ↔ s.isPending x ∨ x = e) (howner : ∀ c, (t.cell c).owner = (s.cell c).owner)
    (hcell : ∀ c, e = .cell c → p = (s.cell c).owner) : BacklogExact t := by
  have hmem (x : BacklogEntry) (o : PortIx) : x ∈ (t.port o).backlog ↔ x ∈ (s.port o).backlog ∨ o = p ∧ x = e := by
    rw [hports o]
    split
    · next ho => simp [ho]
    · next ho => simp [ho]
  have habsent (o : PortIx) : e ∉ (s.port o).backlog := fun ho => hnew ((h.pending e).2 ⟨o, ho⟩)
  refine ⟨fun x => ?_, fun x o q ho hq => ?_, fun c o ho => ?_, fun o => ?_⟩
  · rw [hpending x, h.pending x]
    constructor
    · rintro (⟨o, ho⟩ | rfl)
      · exact ⟨o, (hmem x o).2 (.inl ho)⟩
      · exact ⟨p, (hmem x p).2 (.inr ⟨rfl, rfl⟩)⟩
    · rintro ⟨o, ho⟩
      rcases (hmem x o).1 ho with ho | ⟨-, rfl⟩
      · exact .inl ⟨o, ho⟩
      · exact .inr rfl
  · rcases (hmem x o).1 ho with ho | ⟨rfl, rfl⟩ <;> rcases (hmem x q).1 hq with hq | ⟨hq, hx⟩
    · exact h.once x o q ho hq
    · exact absurd (hx ▸ ho) (habsent o)
    · exact absurd hq (habsent q)
    · exact hq.symm
  · rw [howner c]
    rcases (hmem _ o).1 ho with ho | ⟨rfl, he⟩
    · exact h.owned c o ho
    · exact hcell c he.symm
  · rw [hports o]
    split
    · refine List.nodup_append.2 ⟨h.nodup p, List.nodup_singleton e, fun x hx y hy hxy => ?_⟩
      rw [List.mem_singleton] at hy
      exact habsent p (hy ▸ hxy ▸ hx)
    · exact h.nodup o

/-- Entries at the head of a backlog leave it and are pending no more. -/
theorem BacklogExact.leave {s t : State} (h : BacklogExact s) {p : PortIx} {es rest : List BacklogEntry}
    (hback : (s.port p).backlog = es ++ rest)
    (hports : ∀ o, (t.port o).backlog = if o = p then rest else (s.port o).backlog)
    (hpending : ∀ x, t.isPending x ↔ s.isPending x ∧ x ∉ es) (howner : ∀ c, (t.cell c).owner = (s.cell c).owner) :
    BacklogExact t := by
  have hnodup := h.nodup p
  rw [hback] at hnodup
  obtain ⟨-, hrest, hdisjoint⟩ := List.nodup_append.1 hnodup
  have hmem (x : BacklogEntry) (o : PortIx) : x ∈ (t.port o).backlog ↔ x ∈ (s.port o).backlog ∧ x ∉ es := by
    rw [hports o]
    split
    · next ho =>
      rw [ho, hback, List.mem_append]
      exact ⟨fun hx => ⟨.inr hx, fun he => hdisjoint x he x hx rfl⟩, fun ⟨hor, he⟩ => hor.resolve_left he⟩
    · next ho =>
      refine ⟨fun hx => ⟨hx, fun he => ho (h.once x o p hx ?_)⟩, fun hx => hx.1⟩
      rw [hback]
      exact List.mem_append_left _ he
  refine ⟨fun x => ?_, fun x o q ho hq => h.once x o q ((hmem x o).1 ho).1 ((hmem x q).1 hq).1, fun c o ho => ?_, fun o => ?_⟩
  · rw [hpending x, h.pending x]
    constructor
    · rintro ⟨⟨o, ho⟩, hx⟩
      exact ⟨o, (hmem x o).2 ⟨ho, hx⟩⟩
    · rintro ⟨o, ho⟩
      obtain ⟨ho, hx⟩ := (hmem x o).1 ho
      exact ⟨⟨o, ho⟩, hx⟩
  · rw [howner c]
    exact h.owned c o ((hmem _ o).1 ho).1
  · rw [hports o]
    split
    · exact hrest
    · exact h.nodup o

/-! ### Notices -/

theorem State.isPending_setPending (s : State) (i : Nat) (n : PendingNotice) (e : BacklogEntry) :
    (s.setPending i (some n)).isPending e ↔ s.isPending e ∨ e = .record i := by
  cases e with
  | cell c => exact ⟨.inl, fun hor => hor.resolve_right fun hc => nomatch hc⟩
  | record j =>
    rw [State.isPending_record, State.isPending_record, State.record_setPending]
    by_cases hj : j = i <;> simp [hj]

theorem State.isPending_pendLevel (s : State) (c : CellIx) (e : BacklogEntry) :
    (s.modCell c fun k => { k with pendingLevel := true }).isPending e ↔ s.isPending e ∨ e = .cell c := by
  cases e with
  | record j => exact ⟨.inl, fun hor => hor.resolve_right fun hc => nomatch hc⟩
  | cell d =>
    rw [State.isPending_cell, State.isPending_cell, State.cell_modCell]
    by_cases hd : d = c <;> simp [hd]

theorem BacklogExact.raiseSession {s : State} (h : BacklogExact s) (i : Nat) (kind : SessionNotice) (cause : Cause) :
    BacklogExact (s.raiseSession i kind cause) := by
  cases hl : s.liveAt i with
  | none => simpa [State.raiseSession, hl] using h
  | some x =>
    rcases State.raiseSession_cases s i kind cause x.1 x.2 hl _ rfl with ⟨-, he⟩ | ⟨-, -, he⟩ | ⟨-, -, he⟩
    · rwa [he]
    · rw [he]
      exact h.modPort _ _ (Port.pushRing_backlog ..)
    · rw [he]
      by_cases hp : (s.record i).pending = none
      · refine h.push (p := (s.cell x.1.key.cell).owner) (e := .record i) (fun hn => hn hp) (fun o => ?_)
          (State.isPending_setPending s i _) (fun _ => rfl) fun _ hc => nomatch hc
        rw [State.port_modPort, if_pos hp]
        split <;> rfl
      · have hset : BacklogExact (s.setPending i (some (s.noticeOf i x.1 kind cause))) := by
          refine h.congr (fun _ => rfl) (fun e => (State.isPending_setPending s i _ e).trans ?_) fun _ => rfl
          exact ⟨fun hor => hor.elim id fun he => he ▸ hp, .inl⟩
        refine hset.modPort _ _ ?_
        rw [if_neg hp]
        exact List.append_nil _

theorem BacklogExact.raiseLevel {s : State} (h : BacklogExact s) (c : CellIx) : BacklogExact (s.raiseLevel c) := by
  have howner (d : CellIx) : ((s.modCell c fun k => { k with pendingLevel := true }).cell d).owner = (s.cell d).owner := by
    rw [State.cell_modCell]
    split
    · next hd => rw [hd]
    · rfl
  rcases State.raiseLevel_cases s c _ rfl with ⟨-, he⟩ | ⟨-, -, he⟩ | ⟨-, -, he⟩
  · rwa [he]
  · rw [he]
    exact h.modPort _ _ (Port.pushRing_backlog ..)
  · rw [he]
    cases hp : (s.cell c).pendingLevel with
    | false =>
      refine h.push (p := (s.cell c).owner) (e := .cell c) (fun hn => by simp [hp] at hn) (fun o => ?_)
        (State.isPending_pendLevel s c) howner fun d hd => by cases hd; rfl
      rw [State.port_modPort]
      split
      · simp
      · rfl
    | true =>
      have hset : BacklogExact (s.modCell c fun k => { k with pendingLevel := true }) := by
        refine h.congr (fun _ => rfl) (fun e => (State.isPending_pendLevel s c e).trans ?_) howner
        exact ⟨fun hor => hor.elim id fun he => he ▸ hp, .inl⟩
      refine hset.modPort _ _ ?_
      simp

/-- Entries that left the backlog are pending no more (R156). -/
theorem BacklogLeft.isPending {s t : State} {es : List BacklogEntry} (h : BacklogLeft s t es) (e : BacklogEntry) :
    t.isPending e ↔ s.isPending e ∧ e ∉ es := by
  obtain ⟨hrecords, hcells, -⟩ := h
  cases e with
  | record i =>
    rw [State.isPending_record, State.isPending_record, hrecords i]
    split <;> simp [*]
  | cell c =>
    rw [State.isPending_cell, State.isPending_cell, hcells c]
    split <;> simp [*]

theorem BacklogLeft.owner {s t : State} {es : List BacklogEntry} (h : BacklogLeft s t es) (c : CellIx) :
    (t.cell c).owner = (s.cell c).owner := by
  rw [h.2.1 c]
  split <;> rfl

theorem BacklogExact.refillRing {s : State} (h : BacklogExact s) (p : PortIx) (fuel : Nat) : BacklogExact (s.refillRing p fuel) := by
  induction fuel generalizing s with
  | zero => exact h
  | succ n ih =>
    unfold State.refillRing
    split
    · exact h
    · next e rest hb =>
      split
      · refine ih ?_
        have hleft := State.dropEntry_left
          (s.modPort p fun q => { q with backlog := rest, ring := q.ring ++ (s.entryNotice e).toList }) e
        refine h.leave (p := p) (es := [e]) (rest := rest) hb (fun o => ?_) hleft.isPending hleft.owner
        rw [State.dropEntry_port, State.port_modPort]
        split <;> rfl
      · exact h

theorem BacklogExact.fetchNotices {s : State} (h : BacklogExact s) (p : PortIx) (k : Nat) :
    BacklogExact (s.fetchNotices p k).2 := by
  have hdropped : BacklogExact (s.modPort p fun q => { q with ring := q.ring.drop k }) := h.modPort p _ rfl
  exact (hdropped.refillRing p _).modPort p (fun q => q.followRing s.tick (s.port p).ring.length) (Port.followRing_backlog ..)

theorem BacklogExact.clearNotices {s : State} (h : BacklogExact s) (p : PortIx) : BacklogExact (s.clearNotices p) := by
  have hleft := State.dropEntries_left (s.port p).backlog s (h.nodup p)
  refine h.leave (p := p) (es := (s.port p).backlog) (rest := []) (List.append_nil _).symm (fun o => ?_) hleft.isPending
    hleft.owner
  unfold State.clearNotices
  rw [State.port_modPort]
  split
  · rfl
  · rw [State.dropEntries_port]

theorem keepsNotices_backlog : KeepsNotices BacklogExact where
  unnoticed hu h := h.congr (fun p => by rw [State.port, hu.ports]; rfl)
    (State.isPending_congr hu.records fun c => (hu.cells c).1) fun c => (hu.cells c).2
  raisedSession i kind cause h := h.raiseSession i kind cause
  raisedLevel c h := h.raiseLevel c
  fetched p k h := h.fetchNotices p k

/-! ### Every event -/

theorem BacklogExact.handOver {s : State} (h : BacklogExact s) (l : Lane) (p : PortIx) : BacklogExact (s.handOver l p) :=
  h.congr (State.handOver_backlog s l p)
    (State.isPending_congr (fun i => by rw [State.handOver_record]) fun c => by rw [State.handOver_cell])
    fun c => by rw [State.handOver_cell]

theorem BacklogExact.same {s t : State} (h : BacklogExact s) (hports : t.ports = s.ports) (hrecords : t.records = s.records)
    (hcells : t.cells = s.cells) : BacklogExact t := by
  refine h.congr (fun p => ?_) (State.isPending_congr (fun i => ?_) fun c => ?_) fun c => ?_
  · rw [State.port, hports, State.port]
  · rw [State.record, hrecords, State.record]
  · rw [State.cell, hcells, State.cell]
  · rw [State.cell, hcells, State.cell]

theorem BacklogExact.enterDraining {s : State} (h : BacklogExact s) (p : PortIx) : BacklogExact (s.enterDraining p) := by
  have haway : BacklogExact (s.turnAway p) := h.modPort p _ rfl
  exact ((haway.clearNotices p).modPort p (fun q => { q with state := .draining, drainFlag := true }) rfl).same rfl rfl rfl

theorem BacklogExact.acceptFrame {s : State} (h : BacklogExact s) (p : PortIx) (r : Request) :
    BacklogExact (s.acceptFrame p r) := by
  unfold State.acceptFrame
  split
  · exact h.modPort p _ rfl
  · have hup : BacklogExact (s.modPort p fun q => { q with state := .up, timestamp := s.tick }) := h.modPort p _ rfl
    unfold State.placeRequest
    split
    · refine hup.modPort p _ ?_
      cases r.lane <;> rfl
    · exact hup.modPort p _ rfl

theorem BacklogExact.commandDone {s : State} (h : BacklogExact s) (c : CellIx) (st : CellState) :
    BacklogExact (s.commandDone c st) := h.modCell c _ (by intro k; exact ⟨rfl, rfl⟩)

theorem sparseFind_mem {α : Type} {l : List (Nat × α)} {k : Nat} {v : α} (h : sparseFind l k = some v) : (k, v) ∈ l := by
  induction l with
  | nil => cases h
  | cons e rest ih =>
    unfold sparseFind at h
    split at h
    · next hk => cases h; rw [← hk]; exact List.mem_cons_self
    · exact List.mem_cons_of_mem _ (ih h)

/-- No record has a pending notice after a Table Reset (R14). -/
theorem State.pending_resetTable (s : State) (i : Nat) : (s.resetTable.record i).pending = none := by
  show ((sparseFind (resetRecords s.records) i).getD Record.fresh).pending = none
  cases hf : sparseFind (resetRecords s.records) i with
  | none => rfl
  | some r =>
    have hmem := (List.mem_filter.1 (sparseFind_mem hf)).1
    obtain ⟨e, -, he⟩ := List.mem_map.1 hmem
    have hr : r = e.2.afterReset := (congrArg Prod.snd he).symm
    rw [Option.getD_some, hr]
    unfold Record.afterReset
    split <;> rfl

/-- No entry stands in a backlog, and none is pending. -/
theorem BacklogExact.of_empty {s : State} (hports : ∀ p, (s.port p).backlog = [])
    (hrecords : ∀ i, (s.record i).pending = none) (hcells : ∀ c, (s.cell c).pendingLevel = false) : BacklogExact s := by
  refine ⟨fun e => ?_, fun e p o hp => ?_, fun c p hp => ?_, fun p => ?_⟩
  · cases e <;> simp [hports, hrecords, hcells]
  · simp [hports] at hp
  · simp [hports] at hp
  · simp [hports]

theorem Port.writeAttention_backlog (q : Port) (now : Tick) (b : Byte) : (q.writeAttention now b).backlog = q.backlog := by
  have hmode : (q.takeMode b).backlog = q.backlog := by
    unfold Port.takeMode
    split <;> rfl
  rw [Port.writeAttention_eq, ← hmode]
  unfold Port.writeEnable
  split
  · rfl
  · split
    · rw [Port.followRing_backlog]
    · rfl

theorem keepsEvents_backlog : KeepsEvents BacklogExact where
  toKeepsTables := keepsNotices_backlog.tables
  handedOver h _ := h.handOver _ _
  answered p _ _ h := h.modPort p _ rfl
  discarded p h := (h.modPort p (fun q => { q with errorCount := min 65535 (q.errorCount + 1) }) rfl).same rfl rfl rfl
  arrived p r h := h.acceptFrame p r
  sent {s p _ rest} bytes _ h _ := (h.modPort p (fun q => { q with transmit := rest, sent := bytes }) rfl).same rfl rfl rfl
  withdrawn {s l p r} h _ := ((h.handOver l p).modPort p _ rfl).enterDraining p
  expired {s p} h _ := (h.enterDraining p).same rfl rfl rfl
  pulseEnded {s p} h _ := h.modPort p Port.endPulse rfl
  begun {s j} h _ _ := by
    cases j with
    | portDrain p => exact (h.modPort p (fun q => { q with drainFlag := false }) rfl).same rfl rfl rfl
    | cellDrain c => exact (h.modCell c (fun k => { k with drainFlag := false }) (by intro k; exact ⟨rfl, rfl⟩)).same rfl rfl rfl
  cellDrained {s c} h _ _ := (keepsNotices_backlog.closeCell h c).same rfl rfl rfl
  portDrained {s p} h _ _ := (h.modPort p (fun q => { q with state := .down }) rfl).same rfl rfl rfl
  accessed _ _ _ _ h := h.same rfl rfl rfl
  tableOpened h := h.same rfl rfl rfl
  tableReset {s} _ := by
    refine .of_empty (fun p => ?_) (State.pending_resetTable s) fun c => ?_
    · rw [State.port_resetTable]
      rfl
    · rw [State.cell_resetTable]
      rfl
  opened {s c} h _ := keepsNotices_backlog.recompute (h.commandDone c .opened) c
  barred h _ := h.commandDone ..
  unbarred h _ := h.commandDone ..
  draining {s c} h _ := ((h.commandDone c .draining).modCell c (fun k => { k with drainFlag := true })
    (by intro k; exact ⟨rfl, rfl⟩)).same rfl rfl rfl
  stopped {s c} h _ := ((h.commandDone c .barred).modCell c (fun k => { k with drainFlag := false })
    (by intro k; exact ⟨rfl, rfl⟩)).same rfl rfl rfl
  refused c h := h.modCell c (fun k => { k with result := .refused }) (by intro k; exact ⟨rfl, rfl⟩)
  watchRestarted {s} h := by
    refine h.congr (fun p => ?_) (State.isPending_congr (fun _ => rfl) fun _ => rfl) fun _ => rfl
    rw [State.port_restartSupervision]
    split <;> rfl
  attention {s} p b h := by
    exact h.modPort p _ (Port.writeAttention_backlog ..)
  pulseWidth p b h := by
    refine h.modPort p _ ?_
    unfold Port.writePulseWidth
    split <;> rfl
  ringSize p b h := by
    refine h.modPort p _ ?_
    unfold Port.writeRingSize
    split <;> rfl
  eventsSet _ _ h := h.same rfl rfl rfl

theorem backlogExact_reset : BacklogExact State.reset :=
  .of_empty (fun p => by rw [State.port_reset]; rfl) (fun i => by rw [State.record_reset]; rfl)
    fun c => by rw [State.cell_reset]; rfl

theorem BacklogExact.storePart {s : State} (h : BacklogExact s) (f : Field) (part : Part) (b : Byte) :
    BacklogExact (s.storePart f part b) := by
  cases part with
  | whole =>
    simp only [State.storePart, State.storeByte]
    split
    · exact h.modCell _ _ (by intro k; exact ⟨rfl, rfl⟩)
    all_goals exact h.same rfl rfl rfl
  | high =>
    simp only [State.storePart]
    split <;> exact h.same rfl rfl rfl
  | low =>
    simp only [State.storePart, State.storeHalf]
    split <;> exact h.same rfl rfl rfl

/-- What a record is after a write of the aging weight (R73). -/
theorem State.record_reweigh (s : State) (w i : Nat) : (s.reweigh w).record i = (s.record i).reweighted w := by
  have hfind (l : List (Nat × Record)) : sparseFind (l.map fun (e : Nat × Record) => (e.1, e.2.reweighted w)) i
      = (sparseFind l i).map fun r => r.reweighted w := by
    induction l with
    | nil => rfl
    | cons e rest ih =>
      simp only [List.map_cons, sparseFind]
      split
      · rfl
      · exact ih
  show (sparseFind (s.records.map fun (e : Nat × Record) => (e.1, e.2.reweighted w)) i).getD Record.fresh
    = ((sparseFind s.records i).getD Record.fresh).reweighted w
  rw [hfind]
  cases sparseFind s.records i <;> rfl

theorem State.cell_reweigh (s : State) (w : Nat) (c : CellIx) :
    (s.reweigh w).cell c = { s.cell c with queue := ((s.reweigh w).cell c).queue } := by
  simp [State.reweigh, State.cell, State.reorderQueue]

theorem Record.reweighted_pending (r : Record) (w : Nat) : (r.reweighted w).pending = r.pending := by
  unfold Record.reweighted
  split <;> rfl

/-- The owner of a cell without a pending LEVEL entry may change (R29). -/
theorem BacklogExact.owner {s : State} (h : BacklogExact s) {c : CellIx} (p : PortIx) (hc : (s.cell c).pendingLevel = false) :
    BacklogExact (s.modCell c fun k => { k with owner := p }) := by
  refine ⟨fun e => (State.isPending_modCell s c _ (by intro k; rfl) e).trans (h.pending e), h.once, fun d o ho => ?_, h.nodup⟩
  rw [State.cell_modCell]
  split
  · next hd =>
    have hp : s.isPending (.cell d) := (h.pending _).2 ⟨o, ho⟩
    rw [State.isPending_cell, hd, hc] at hp
    cases hp
  · exact h.owned d o ho

theorem keepsAll_backlog : KeepsAll BacklogExact where
  toKeepsEvents := keepsEvents_backlog
  pinReset _ := backlogExact_reset.same rfl rfl rfl
  ticked _ _ h := h.same rfl rfl rfl
  stored f part b h := h.storePart f part b
  capacity {s c v} h _ := keepsNotices_backlog.recompute (h.modCell c (fun k => { k with capacity := v })
    (by intro k; exact ⟨rfl, rfl⟩)) c
  floor {s c v} h _ := h.modCell c (fun k => { k with floor := v }) (by intro k; exact ⟨rfl, rfl⟩)
  threshold1 c v h := keepsNotices_backlog.recompute (h.modCell c (fun k => { k with t1 := clampThreshold v })
    (by intro k; exact ⟨rfl, rfl⟩)) c
  threshold2 c v h := keepsNotices_backlog.recompute (h.modCell c (fun k => { k with t2 := clampThreshold v })
    (by intro k; exact ⟨rfl, rfl⟩)) c
  threshold3 c v h := keepsNotices_backlog.recompute (h.modCell c (fun k => { k with t3 := clampThreshold v })
    (by intro k; exact ⟨rfl, rfl⟩)) c
  owner p h _ hc := h.owner p hc
  depthLimit c v h := h.modCell c (fun k => { k with depthLimit := min 64 v }) (by intro k; exact ⟨rfl, rfl⟩)
  reweighed {s} v h := by
    refine h.congr (fun _ => rfl) (State.isPending_congr (fun i => ?_) fun c => ?_) fun c => ?_
    · rw [State.record_reweigh, Record.reweighted_pending]
    · rw [State.cell_reweigh]
    · rw [State.cell_reweigh]
  supervision _ h := h.same rfl rfl rfl

/-- Settles O6: an entry joins a backlog when its notice becomes pending, and leaves it when the notice moves or is cleared. -/
theorem backlogsStayExact : Obligations.BacklogsStayExact := by
  intro s t h hstep
  exact (backlogExact_iff t).2 (keepsAll_backlog.step (fun _ h => h.same rfl rfl rfl) ((backlogExact_iff s).1 h) hstep)

end Sys2Proof.Machine
end

section
/-! Proof that every step keeps the record store exact (chapter 1): the free list, pending notices of FREE and SPENT records,
generations, the key directory and the canonical form of the stores. -/

namespace Sys2Proof.Machine

/-! ### The record store, in terms of keys -/

/-- The key of a live record; none for any other. -/
def State.keyAt (s : State) (i : Nat) : Option Key := (s.liveAt i).map fun x => x.1.key

theorem State.keyAt_of_live {s : State} {i : Nat} {ses : Session} {st : Stage} (h : s.liveAt i = some (ses, st)) :
    s.keyAt i = some ses.key := by
  unfold State.keyAt
  rw [h]
  rfl

theorem State.keyAt_eq_some {s : State} {i : Nat} {k : Key} :
    s.keyAt i = some k ↔ ∃ ses st, (s.record i).life = .live ses st ∧ ses.key = k := by
  unfold State.keyAt
  rw [Option.map_eq_some_iff]
  constructor
  · rintro ⟨⟨ses, st⟩, hl, hk⟩
    exact ⟨ses, st, State.liveAt_eq_some.1 hl, hk⟩
  · rintro ⟨ses, st, hl, hk⟩
    exact ⟨(ses, st), State.liveAt_eq_some.2 hl, hk⟩

theorem State.keyAt_eq_none {s : State} {i : Nat} : s.keyAt i = none ↔ (s.record i).life = .free ∨ (s.record i).life = .spent := by
  unfold State.keyAt State.liveAt
  cases (s.record i).life <;> simp

theorem State.keyAt_congr {s t : State} {i : Nat} (h : t.record i = s.record i) : t.keyAt i = s.keyAt i := by
  unfold State.keyAt State.liveAt
  rw [h]

/-- A directory maps each key that an index has to the handle of that index, and no other key. -/
def DirectoryMaps (find : Key → Option Handle) (keyAt : Nat → Option Key) (handle : Nat → Handle) : Prop :=
  ∀ k h, find k = some h ↔ keyAt h.index = some k ∧ handle h.index = h

/-- The record store is exact, clause by clause. -/
structure StoreExact (s : State) : Prop where
  nodup : s.freeList.Nodup
  free : ∀ i, i ∈ s.freeList ↔ i < Config.recordCount ∧ (s.record i).life = .free
  bound : ∀ i, (s.record i).life ≠ .free → i < Config.recordCount
  quiet : ∀ i, (s.record i).life = .free → (s.record i).pending = none
  spent : ∀ i, (s.record i).life = .spent → (s.record i).pending ≠ none
  generation : ∀ i, 1 ≤ (s.record i).generation ∧ (s.record i).generation ≤ 255
  directory : DirectoryMaps s.findKey s.keyAt s.handleOf
  canonical : s.storeCanonical = true

theorem storeExact_iff (s : State) : s.storeExact ↔ StoreExact s := by
  have hkeys (k : Key) (h : Handle) : (∃ ses st, s.liveAt h.index = some (ses, st) ∧ ses.key = k ∧ s.handleOf h.index = h)
      ↔ s.keyAt h.index = some k ∧ s.handleOf h.index = h := by
    rw [State.keyAt_eq_some]
    constructor
    · rintro ⟨ses, st, hl, hk, hh⟩
      exact ⟨⟨ses, st, State.liveAt_eq_some.1 hl, hk⟩, hh⟩
    · rintro ⟨⟨ses, st, hl, hk⟩, hh⟩
      exact ⟨ses, st, State.liveAt_eq_some.2 hl, hk, hh⟩
  constructor
  · rintro ⟨⟨hn, hf, hb⟩, hp, hg, hd, hc⟩
    exact ⟨hn, hf, hb, fun i => (hp i).1, fun i => (hp i).2, hg, fun k h => (hd k h).trans (hkeys k h), hc⟩
  · rintro ⟨hn, hf, hb, hq, hs, hg, hd, hc⟩
    exact ⟨⟨hn, hf, hb⟩, fun i => ⟨hq i, hs i⟩, hg, fun k h => (hd k h).trans (hkeys k h).symm, hc⟩

/-! ### The directory -/

/-- Two indices with one key are one. -/
theorem DirectoryMaps.injective {find : Key → Option Handle} {keyAt : Nat → Option Key} {handle : Nat → Handle}
    (h : DirectoryMaps find keyAt handle) (hindex : ∀ i, (handle i).index = i) {i j : Nat} {k : Key} (hi : keyAt i = some k)
    (hj : keyAt j = some k) : i = j := by
  have hfi : find k = some (handle i) := (h k _).2 ⟨by rwa [hindex], by rw [hindex]⟩
  have hfj : find k = some (handle j) := (h k _).2 ⟨by rwa [hindex], by rw [hindex]⟩
  rw [hfi] at hfj
  have he := congrArg Handle.index (Option.some.inj hfj)
  rwa [hindex, hindex] at he

/-- An index loses its key, and the directory the entry of that key. -/
theorem DirectoryMaps.drop {find find' : Key → Option Handle} {keyAt keyAt' : Nat → Option Key} {handle handle' : Nat → Handle}
    (h : DirectoryMaps find keyAt handle) (hindex : ∀ i, (handle i).index = i) {i : Nat} {k : Key} (hi : keyAt i = some k)
    (hnone : find' k = none) (hfind : ∀ l, l ≠ k → find' l = find l) (hi' : keyAt' i = none)
    (hkeys : ∀ j, j ≠ i → keyAt' j = keyAt j ∧ handle' j = handle j) : DirectoryMaps find' keyAt' handle' := by
  intro l x
  by_cases hx : x.index = i
  · rw [hx, hi']
    refine ⟨fun hl => ?_, fun hc => nomatch hc.1⟩
    by_cases hlk : l = k
    · rw [hlk, hnone] at hl
      cases hl
    · rw [hfind l hlk, h l x, hx, hi] at hl
      exact absurd (Option.some.inj hl.1).symm hlk
  · rw [(hkeys _ hx).1, (hkeys _ hx).2]
    by_cases hlk : l = k
    · rw [hlk, hnone]
      exact ⟨fun hl => (nomatch hl), fun hc => absurd (h.injective hindex hc.1 hi) hx⟩
    · rw [hfind l hlk]
      exact h l x

/-- An index without a key gains one, and the directory its entry. -/
theorem DirectoryMaps.add {find find' : Key → Option Handle} {keyAt keyAt' : Nat → Option Key} {handle handle' : Nat → Handle}
    (h : DirectoryMaps find keyAt handle) {i : Nat} {k : Key} (hi : keyAt i = none)
    (hnone : find k = none) (hsome : find' k = some (handle' i)) (hfind : ∀ l, l ≠ k → find' l = find l)
    (hindex' : (handle' i).index = i) (hi' : keyAt' i = some k)
    (hkeys : ∀ j, j ≠ i → keyAt' j = keyAt j ∧ handle' j = handle j) : DirectoryMaps find' keyAt' handle' := by
  intro l x
  by_cases hx : x.index = i
  · rw [hx, hi']
    by_cases hlk : l = k
    · rw [hlk, hsome]
      exact ⟨fun hs => ⟨rfl, Option.some.inj hs⟩, fun hc => congrArg some hc.2⟩
    · rw [hfind l hlk, h l x, hx, hi]
      exact ⟨fun hc => (nomatch hc.1), fun hc => absurd (Option.some.inj hc.1).symm hlk⟩
  · rw [(hkeys _ hx).1, (hkeys _ hx).2]
    by_cases hlk : l = k
    · rw [hlk, hsome]
      refine ⟨fun hs => absurd ?_ hx, fun hc => absurd ((h k x).2 hc) (by rw [hnone]; simp)⟩
      rw [← Option.some.inj hs, hindex']
    · rw [hfind l hlk]
      exact h l x

/-! ### Changes that leave every record live, FREE or SPENT as it was -/

/-- No record changes its generation, its life beside the fields and stage of a live one, its key, or, unless live, its pending
notice; free list and directory are as they were. -/
structure Relived (s t : State) : Prop where
  generation : ∀ i, (t.record i).generation = (s.record i).generation
  free : ∀ i, (t.record i).life = .free ↔ (s.record i).life = .free
  spent : ∀ i, (t.record i).life = .spent ↔ (s.record i).life = .spent
  keys : ∀ i, t.keyAt i = s.keyAt i
  pending : ∀ i, s.keyAt i = none → (t.record i).pending = (s.record i).pending
  freeList : t.freeList = s.freeList
  directory : t.directory = s.directory
  canonical : s.storeCanonical = true → t.storeCanonical = true

theorem Relived.of_store {s t : State} (hr : t.records = s.records) (hf : t.freeList = s.freeList) (hd : t.directory = s.directory) :
    Relived s t := by
  have hrecord (i : Nat) : t.record i = s.record i := by rw [State.record, hr]; rfl
  refine ⟨fun i => by rw [hrecord], fun i => by rw [hrecord], fun i => by rw [hrecord], fun i => State.keyAt_congr (hrecord i),
    fun i _ => by rw [hrecord], hf, hd, fun h => ?_⟩
  unfold State.storeCanonical at h ⊢
  rwa [hr, hd]

theorem Relived.refl (s : State) : Relived s s := .of_store rfl rfl rfl

theorem Relived.trans {s t u : State} (h1 : Relived s t) (h2 : Relived t u) : Relived s u :=
  ⟨fun i => (h2.generation i).trans (h1.generation i), fun i => (h2.free i).trans (h1.free i),
    fun i => (h2.spent i).trans (h1.spent i), fun i => (h2.keys i).trans (h1.keys i),
    fun i hi => (h2.pending i ((h1.keys i).trans hi)).trans (h1.pending i hi), h2.freeList.trans h1.freeList,
    h2.directory.trans h1.directory, fun h => h2.canonical (h1.canonical h)⟩

/-- A live record stored with its generation and its key. -/
theorem Relived.setRecord {s : State} {i : Nat} {r : Record} {k : Key} (hi : s.keyAt i = some k)
    (hg : r.generation = (s.record i).generation) (hr : ∃ ses st, r.life = .live ses st ∧ ses.key = k) :
    Relived s (s.setRecord i r) := by
  obtain ⟨ses, st, hlife, hkey⟩ := hr
  obtain ⟨ses0, st0, hlife0, -⟩ := State.keyAt_eq_some.1 hi
  refine ⟨fun j => ?_, fun j => ?_, fun j => ?_, fun j => ?_, fun j hj => ?_, rfl, rfl, State.storeCanonical_setRecord s i r⟩
  · rw [State.record_setRecord]
    split
    · next h => rw [hg, h]
    · rfl
  · rw [State.record_setRecord]
    split
    · next h => simp [h, hlife, hlife0]
    · rfl
  · rw [State.record_setRecord]
    split
    · next h => simp [h, hlife, hlife0]
    · rfl
  · by_cases h : j = i
    · rw [h, hi, State.keyAt_eq_some]
      exact ⟨ses, st, by rw [State.record_setRecord_self, hlife], hkey⟩
    · exact State.keyAt_congr (State.record_setRecord_ne _ _ _ _ h)
  · by_cases h : j = i
    · rw [h, hi] at hj
      cases hj
    · rw [State.record_setRecord_ne _ _ _ _ h]

theorem Relived.setLive {s : State} {i : Nat} {ses : Session} (hi : s.keyAt i = some ses.key) (st : Stage) :
    Relived s (s.setLive i ses st) := .setRecord hi rfl ⟨ses, st, rfl, rfl⟩

theorem Relived.setPending {s : State} {i : Nat} {k : Key} (hi : s.keyAt i = some k) (n : Option PendingNotice) :
    Relived s (s.setPending i n) := by
  obtain ⟨ses, st, hlife, hkey⟩ := State.keyAt_eq_some.1 hi
  exact .setRecord hi rfl ⟨ses, st, hlife, hkey⟩

theorem Relived.modCell (s : State) (c : CellIx) (f : Cell → Cell) : Relived s (s.modCell c f) := .of_store rfl rfl rfl

theorem Relived.raiseSession (s : State) (i : Nat) (kind : SessionNotice) (cause : Cause) :
    Relived s (s.raiseSession i kind cause) := by
  cases hl : s.liveAt i with
  | none => simpa [State.raiseSession, hl] using Relived.refl s
  | some x =>
    rcases State.raiseSession_cases s i kind cause x.1 x.2 hl _ rfl with ⟨-, he⟩ | ⟨-, -, he⟩ | ⟨-, -, he⟩
    · rw [he]
      exact .refl s
    · rw [he]
      exact .of_store rfl rfl rfl
    · rw [he]
      exact (Relived.setPending (State.keyAt_of_live hl) _).trans (.of_store rfl rfl rfl)

theorem Relived.recompute (s : State) (c : CellIx) : Relived s (s.recompute c) := .of_store (by simp) (by simp) (by simp)

theorem Relived.countSetup (s : State) (c : CellIx) (i : Nat) (ses : Session) : Relived s (s.countSetup c i ses) := by
  unfold State.countSetup State.joinRank
  split <;> exact .of_store rfl rfl rfl

theorem Relived.unbind (s : State) (h : Handle) : Relived s (s.unbind h) := by
  unfold State.unbind
  split
  · next hl =>
    split
    · exact .setLive (State.keyAt_of_live hl) _
    · exact .refl s
  · exact .refl s

theorem Relived.unbindAll (s : State) (hs : List Handle) : Relived s (s.unbindAll hs) := by
  unfold State.unbindAll
  induction hs generalizing s with
  | nil => exact .refl s
  | cons h rest ih => exact (Relived.unbind s h).trans (ih _)

theorem Relived.takeVictims (s : State) (rq : Handle) (c : CellIx) (vs : List Nat) : Relived s (s.takeVictims rq c vs) := by
  unfold State.takeVictims
  induction vs generalizing s with
  | nil => exact .refl s
  | cons i rest ih =>
    refine Relived.trans ?_ (ih _)
    unfold State.takeVictim
    split
    · next ses st hl =>
      have hcells : Relived s (((s.leaveRank c i).subA c ses.demand).addC c ses.demand) := .of_store rfl rfl rfl
      exact (hcells.trans (.setLive ((hcells.keys i).trans (State.keyAt_of_live hl)) _)).trans (.raiseSession ..)
    · exact .refl s

theorem Relived.promote {s : State} {i : Nat} {ses : Session} (hi : s.keyAt i = some ses.key) (c : CellIx) (vs : List Handle)
    (need reserved : Nat) : Relived s (s.promote c i ses vs need reserved) := by
  have hfree : Relived s ((s.subR c (reserved + need)).unbindAll vs) := (Relived.modCell ..).trans (.unbindAll ..)
  have hset := hfree.trans (.setLive ((hfree.keys i).trans hi) (setupStage s.tick ses))
  exact (hset.trans (.countSetup ..)).trans (.raiseSession ..)

theorem Relived.passUnits (s : State) (c : CellIx) (victim : Handle) (v : Nat) (b : Handle) :
    Relived s (s.passUnits c victim v b) := by
  unfold State.passUnits
  split
  · next ses victims need reserved collected hl =>
    have hkey := State.keyAt_of_live hl
    split
    · dsimp only
      have hpassed (st : Stage) : Relived s ((s.addR c (min v (need - collected))).setLive b.index ses st) :=
        (Relived.modCell ..).trans (.setLive (s := s.addR c (min v (need - collected))) hkey st)
      split
      · exact (hpassed _).trans (.promote (((hpassed _).keys _).trans hkey) ..)
      · exact hpassed _
    · exact .refl s
  · exact .refl s

theorem Relived.victimExit (s : State) (i : Nat) (ses : Session) (b : Option Handle) : Relived s (s.victimExit i ses b) := by
  unfold State.victimExit
  cases b with
  | none => exact (Relived.modCell ..).trans (.recompute ..)
  | some b => exact ((Relived.modCell ..).trans (.passUnits ..)).trans (.recompute ..)

theorem Relived.giveUp (s : State) (i : Nat) (ses : Session) (st : Stage) : Relived s (s.giveUp i ses st) := by
  cases st with
  | queued => exact .refl s
  | held vs need reserved collected =>
    have hfree : Relived s ((s.subR ses.key.cell (reserved + collected)).unbindAll vs) := (Relived.modCell ..).trans (.unbindAll ..)
    show Relived s (s.withdrawHeld ses vs reserved collected)
    unfold State.withdrawHeld
    dsimp only
    split
    · exact hfree
    · exact hfree.trans (.recompute ..)
  | setup | active => exact (Relived.modCell ..).trans (.recompute ..)
  | ceding stamp b deadline => exact .victimExit s i ses b

theorem Relived.findKey {s t : State} (h : Relived s t) (k : Key) : t.findKey k = s.findKey k := by
  rw [State.findKey, h.directory, State.findKey]

theorem Relived.handleOf {s t : State} (h : Relived s t) (i : Nat) : t.handleOf i = s.handleOf i := by
  rw [State.handleOf, h.generation, State.handleOf]

theorem StoreExact.relived {s t : State} (h : StoreExact s) (ht : Relived s t) : StoreExact t := by
  refine ⟨?_, fun i => ?_, fun i hi => ?_, fun i hi => ?_, fun i hi => ?_, fun i => ?_, fun k x => ?_, ht.canonical h.canonical⟩
  · rw [ht.freeList]
    exact h.nodup
  · rw [ht.freeList, ht.free]
    exact h.free i
  · exact h.bound i fun hn => hi ((ht.free i).2 hn)
  · have hs := (ht.free i).1 hi
    rw [ht.pending i (State.keyAt_eq_none.2 (.inl hs))]
    exact h.quiet i hs
  · have hs := (ht.spent i).1 hi
    rw [ht.pending i (State.keyAt_eq_none.2 (.inr hs))]
    exact h.spent i hs
  · rw [ht.generation]
    exact h.generation i
  · rw [ht.findKey, ht.keys, ht.handleOf]
    exact h.directory k x

/-! ### Records that enter and leave the live states -/

theorem StoreExact.same {s t : State} (h : StoreExact s) (hr : t.records = s.records) (hf : t.freeList = s.freeList)
    (hd : t.directory = s.directory) : StoreExact t := h.relived (.of_store hr hf hd)

theorem State.handleOf_congr {s t : State} {i : Nat} (h : (t.record i).generation = (s.record i).generation) :
    t.handleOf i = s.handleOf i := by
  rw [State.handleOf, h, State.handleOf]

theorem State.takeRecord_canonical (s : State) (ses : Session) (st : Stage) (h : s.storeCanonical = true) :
    (s.takeRecord ses st).storeCanonical = true := by
  unfold State.takeRecord
  split
  · exact h
  · next i rest _ =>
    have hset := State.storeCanonical_addKey _ ses.key (s.handleOf i)
      (State.storeCanonical_setRecord { s with freeList := rest } i
        { ({ s with freeList := rest } : State).record i with life := .live ses st } h)
    dsimp only
    split <;> exact hset

theorem StoreExact.takeRecord {s : State} (h : StoreExact s) {ses : Session} (hkey : s.findKey ses.key = none) (st : Stage) :
    StoreExact (s.takeRecord ses st) := by
  cases hf : s.freeList with
  | nil => simpa [State.takeRecord, hf] using h
  | cons i rest =>
    obtain ⟨⟨hrest, hself, hadded, hother⟩, hkept, -⟩ := s.takeRecord_taken ses st i rest hf
    have hcanonical := s.takeRecord_canonical ses st h.canonical
    generalize s.takeRecord ses st = t at hrest hself hadded hother hkept hcanonical ⊢
    have hne (j : Nat) (hj : j ≠ i) : t.record j = s.record j := hkept j (by simpa using hj)
    have hnodup := h.nodup
    rw [hrest] at hnodup
    obtain ⟨hi, hnodup⟩ := List.nodup_cons.1 hnodup
    have hmem (j : Nat) := h.free j
    rw [hrest] at hmem
    obtain ⟨hbound, hfree⟩ := (hmem i).1 List.mem_cons_self
    have hlive : (t.record i).life = .live ses st := by rw [hself]
    refine ⟨hnodup, fun j => ?_, fun j hj => ?_, fun j hj => ?_, fun j hj => ?_, fun j => ?_, ?_, hcanonical⟩
    · by_cases hji : j = i
      · rw [hji, hlive]
        simp [hi]
      · rw [hne j hji, ← hmem j, List.mem_cons]
        simp [hji]
    · by_cases hji : j = i
      · rw [hji]
        exact hbound
      · exact h.bound j (by rwa [← hne j hji])
    · by_cases hji : j = i
      · rw [hji, hlive] at hj
        cases hj
      · rw [hne j hji] at hj ⊢
        exact h.quiet j hj
    · by_cases hji : j = i
      · rw [hji, hlive] at hj
        cases hj
      · rw [hne j hji] at hj ⊢
        exact h.spent j hj
    · by_cases hji : j = i
      · rw [hji, hself]
        exact h.generation i
      · rw [hne j hji]
        exact h.generation j
    · have hsame : t.handleOf i = s.handleOf i := State.handleOf_congr (by rw [hself])
      exact h.directory.add (State.keyAt_eq_none.2 (.inl hfree)) hkey (hsame ▸ hadded) hother rfl
        (State.keyAt_eq_some.2 ⟨ses, st, hlive, rfl⟩)
        fun j hj => ⟨State.keyAt_congr (hne j hj), State.handleOf_congr (by rw [hne j hj])⟩

theorem nextGeneration_inRange {g : Nat} (h : 1 ≤ g ∧ g ≤ 255) : 1 ≤ nextGeneration g ∧ nextGeneration g ≤ 255 := by
  unfold nextGeneration
  split <;> omega

theorem State.retire_canonical (s : State) (i : Nat) (h : s.storeCanonical = true) : (s.retire i).storeCanonical = true := by
  unfold State.retire
  split
  · next ses _ _ =>
    have hdropped := State.storeCanonical_dropKey s ses.key h
    dsimp only
    split <;> exact State.storeCanonical_setRecord _ _ _ hdropped
  · exact h

theorem StoreExact.retire {s : State} (h : StoreExact s) (i : Nat) : StoreExact (s.retire i) := by
  cases hl : s.liveAt i with
  | none => simpa [State.retire, hl] using h
  | some x =>
    obtain ⟨⟨hself, hfreeList, hdropped, hother⟩, hkept, -⟩ := State.retire_retiredFrom s i x.1 x.2 hl
    have hcanonical := s.retire_canonical i h.canonical
    generalize s.retire i = t at hself hfreeList hdropped hother hkept hcanonical ⊢
    have hne (j : Nat) (hj : j ≠ i) : t.record j = s.record j := hkept j (by simpa using hj)
    have hlife : (s.record i).life = .live x.1 x.2 := State.liveAt_eq_some.1 hl
    have hbound : i < Config.recordCount := h.bound i (by simp [hlife])
    have hfree : i ∉ s.freeList := fun hi => by simpa [hlife] using ((h.free i).1 hi).2
    have hmem (j : Nat) : j ∈ t.freeList ↔ j ∈ s.freeList ∨ (s.record i).pending.isSome = false ∧ j = i := by
      rw [hfreeList]
      split
      · next hp => simp [hp]
      · next hp => simp [hp]
    refine ⟨?_, fun j => ?_, fun j hj => ?_, fun j hj => ?_, fun j hj => ?_, fun j => ?_, ?_, hcanonical⟩
    · rw [hfreeList]
      split
      · exact h.nodup
      · refine List.nodup_append.2 ⟨h.nodup, List.nodup_singleton i, fun a ha b hb hab => ?_⟩
        rw [List.mem_singleton] at hb
        exact hfree (hb ▸ hab ▸ ha)
    · rw [hmem j]
      by_cases hji : j = i
      · rw [hji, hself]
        cases hp : (s.record i).pending.isSome <;> simp [hfree, hbound]
      · rw [hne j hji, ← h.free j]
        simp [hji]
    · by_cases hji : j = i
      · rw [hji]
        exact hbound
      · exact h.bound j (by rwa [← hne j hji])
    · by_cases hji : j = i
      · rw [hji, hself] at hj ⊢
        cases hp : (s.record i).pending <;> simp [hp] at hj ⊢
      · rw [hne j hji] at hj ⊢
        exact h.quiet j hj
    · by_cases hji : j = i
      · rw [hji, hself] at hj ⊢
        cases hp : (s.record i).pending <;> simp [hp] at hj ⊢
      · rw [hne j hji] at hj ⊢
        exact h.spent j hj
    · by_cases hji : j = i
      · rw [hji, hself]
        exact nextGeneration_inRange (h.generation i)
      · rw [hne j hji]
        exact h.generation j
    · refine h.directory.drop (fun _ => rfl) (State.keyAt_of_live hl) hdropped hother (State.keyAt_eq_none.2 ?_)
        fun j hj => ⟨State.keyAt_congr (hne j hj), State.handleOf_congr (by rw [hne j hj])⟩
      rw [hself]
      cases (s.record i).pending <;> simp

/-- A record whose entry leaves the backlog; a SPENT one returns to the free list (R13). -/
theorem StoreExact.dropPending {s : State} (h : StoreExact s) (i : Nat) : StoreExact (s.dropPending i) := by
  have hcanonical : (s.dropPending i).storeCanonical = true := by
    unfold State.dropPending
    split <;> exact State.storeCanonical_setRecord _ _ _ h.canonical
  have hrecord := s.dropPending_record i
  have hfreeList := s.dropPending_freeList i
  have hdirectory : (s.dropPending i).directory = s.directory := by
    unfold State.dropPending
    split <;> rfl
  generalize s.dropPending i = t at hcanonical hrecord hfreeList hdirectory ⊢
  have hne (j : Nat) (hj : j ≠ i) : t.record j = s.record j := by rw [hrecord, if_neg hj]
  have hself := (hrecord i).trans (if_pos rfl)
  have hgeneration (j : Nat) : (t.record j).generation = (s.record j).generation := by
    rw [hrecord]
    split
    · next hj => rw [hj]
    · rfl
  have hlife : (t.record i).life = if (s.record i).life = .spent then .free else (s.record i).life := by rw [hself]
  have hkeys (j : Nat) : t.keyAt j = s.keyAt j := by
    by_cases hji : j = i
    · rw [hji]
      by_cases hs : (s.record i).life = .spent
      · rw [State.keyAt_eq_none.2 (.inr hs)]
        exact State.keyAt_eq_none.2 (.inl (by rw [hlife, if_pos hs]))
      · unfold State.keyAt State.liveAt
        rw [hlife, if_neg hs]
    · exact State.keyAt_congr (hne j hji)
  have hfree (hs : (s.record i).life = .spent) : i ∉ s.freeList := fun hi => by simpa [hs] using ((h.free i).1 hi).2
  refine ⟨?_, fun j => ?_, fun j hj => ?_, fun j hj => ?_, fun j hj => ?_, fun j => ?_, fun k x => ?_, hcanonical⟩
  · rw [hfreeList]
    split
    · next hs =>
      refine List.nodup_append.2 ⟨h.nodup, List.nodup_singleton i, fun a ha b hb hab => ?_⟩
      rw [List.mem_singleton] at hb
      exact hfree hs (hb ▸ hab ▸ ha)
    · rw [List.append_nil]
      exact h.nodup
  · rw [hfreeList, List.mem_append, h.free j]
    by_cases hji : j = i
    · rw [hji, hlife]
      split
      · next hs => simp [hs, h.bound i (by simp [hs])]
      · simp
    · rw [hne j hji]
      split <;> simp [hji]
  · by_cases hji : j = i
    · rw [hji] at hj ⊢
      refine h.bound i fun hn => hj ?_
      rw [hlife, hn]
      simp
    · exact h.bound j (by rwa [← hne j hji])
  · by_cases hji : j = i
    · rw [hji, hself]
    · rw [hne j hji] at hj ⊢
      exact h.quiet j hj
  · by_cases hji : j = i
    · rw [hji, hlife] at hj
      split at hj
      · cases hj
      · next hs => exact absurd hj hs
    · rw [hne j hji] at hj ⊢
      exact h.spent j hj
  · rw [hgeneration]
    exact h.generation j
  · rw [hkeys, State.handleOf_congr (hgeneration _), State.findKey, hdirectory]
    exact h.directory k x

theorem StoreExact.dropEntry {s : State} (h : StoreExact s) (e : BacklogEntry) : StoreExact (s.dropEntry e) := by
  cases e with
  | record i => exact h.dropPending i
  | cell c => exact h.same rfl rfl rfl

theorem StoreExact.clearNotices {s : State} (h : StoreExact s) (p : PortIx) : StoreExact (s.clearNotices p) :=
  StoreExact.same (List.foldlRecOn _ _ h fun _ hu e _ => hu.dropEntry e) rfl rfl rfl

theorem StoreExact.refillRing {s : State} (h : StoreExact s) (p : PortIx) (fuel : Nat) : StoreExact (s.refillRing p fuel) := by
  induction fuel generalizing s with
  | zero => exact h
  | succ n ih =>
    unfold State.refillRing
    split
    · exact h
    · split
      · refine ih (StoreExact.dropEntry ?_ _)
        exact h.same rfl rfl rfl
      · exact h

theorem StoreExact.fetchNotices {s : State} (h : StoreExact s) (p : PortIx) (k : Nat) : StoreExact (s.fetchNotices p k).2 := by
  have hdropped : StoreExact (s.modPort p fun q => { q with ring := q.ring.drop k }) := h.same rfl rfl rfl
  exact StoreExact.same (hdropped.refillRing p _) rfl rfl rfl

end Sys2Proof.Machine
end

section
/-! The record store, continued: Moves, resets, and every event. -/

namespace Sys2Proof.Machine

/-! ### Moves -/

theorem State.findKey_of_moveRefusal {s : State} {ses : Session} {target : CellIx} (h : s.moveRefusal ses target = none) :
    s.findKey (s.movedSession ses target).key = none := by
  unfold State.moveRefusal at h
  dsimp only at h
  split at h
  · cases h
  · split at h
    · cases h
    · split at h
      · cases h
      · next hk => exact hk

/-- A live record takes another key, and the directory follows (R16, R109). -/
theorem StoreExact.rekey {s : State} (h : StoreExact s) {i : Nat} {ses ses' : Session} {st : Stage}
    (hl : s.liveAt i = some (ses, st)) (hkey : s.findKey ses'.key = none) (st' : Stage) :
    StoreExact (((s.dropKey ses.key).setLive i ses' st').addKey ses'.key (s.handleOf i)) := by
  have hlife : (s.record i).life = .live ses st := State.liveAt_eq_some.1 hl
  have hold : s.findKey ses.key = some (s.handleOf i) := (h.directory _ _).2 ⟨State.keyAt_of_live hl, rfl⟩
  have hrecord (j : Nat) : (((s.dropKey ses.key).setLive i ses' st').addKey ses'.key (s.handleOf i)).record j
      = if j = i then { s.record i with life := .live ses' st' } else s.record j := State.record_setLive (s.dropKey ses.key) ..
  have hadded : (((s.dropKey ses.key).setLive i ses' st').addKey ses'.key (s.handleOf i)).findKey ses'.key
      = some (s.handleOf i) := State.findKey_addKey_self ..
  have hother (l : Key) (hne : l ≠ ses'.key) : (((s.dropKey ses.key).setLive i ses' st').addKey ses'.key (s.handleOf i)).findKey l
      = (s.dropKey ses.key).findKey l := State.findKey_addKey_ne _ _ _ _ hne
  have hcanonical := State.storeCanonical_addKey ((s.dropKey ses.key).setLive i ses' st') ses'.key (s.handleOf i)
    (State.storeCanonical_setRecord (s.dropKey ses.key) i _ (State.storeCanonical_dropKey s ses.key h.canonical))
  have hfreeList : (((s.dropKey ses.key).setLive i ses' st').addKey ses'.key (s.handleOf i)).freeList = s.freeList := rfl
  generalize ((s.dropKey ses.key).setLive i ses' st').addKey ses'.key (s.handleOf i) = t at *
  have hself := (hrecord i).trans (if_pos rfl)
  have hne (j : Nat) (hj : j ≠ i) : t.record j = s.record j := (hrecord j).trans (if_neg hj)
  have hfree (j : Nat) : (t.record j).life = .free ↔ (s.record j).life = .free := by
    by_cases hj : j = i
    · rw [hj, hself, hlife]
      simp
    · rw [hne j hj]
  have hspent (j : Nat) : (t.record j).life = .spent ↔ (s.record j).life = .spent := by
    by_cases hj : j = i
    · rw [hj, hself, hlife]
      simp
    · rw [hne j hj]
  have hpending (j : Nat) : (t.record j).pending = (s.record j).pending ∧ (t.record j).generation = (s.record j).generation := by
    by_cases hj : j = i
    · rw [hj, hself]
      exact ⟨rfl, rfl⟩
    · rw [hne j hj]
      exact ⟨rfl, rfl⟩
  refine ⟨?_, fun j => ?_, fun j hj => h.bound j fun hn => hj ((hfree j).2 hn), fun j hj => ?_, fun j hj => ?_, fun j => ?_, ?_,
    hcanonical⟩
  · rw [hfreeList]
    exact h.nodup
  · rw [hfreeList, hfree]
    exact h.free j
  · rw [(hpending j).1]
    exact h.quiet j ((hfree j).1 hj)
  · rw [(hpending j).1]
    exact h.spent j ((hspent j).1 hj)
  · rw [(hpending j).2]
    exact h.generation j
  · have hdropped : DirectoryMaps (s.dropKey ses.key).findKey (fun j => if j = i then none else s.keyAt j) s.handleOf :=
      h.directory.drop (fun _ => rfl) (State.keyAt_of_live hl) (State.findKey_dropKey_self ..)
        (fun l hne => State.findKey_dropKey_ne _ _ _ hne) (if_pos rfl) fun j hj => ⟨if_neg hj, rfl⟩
    have hnone : (s.dropKey ses.key).findKey ses'.key = none := by
      rw [State.findKey_dropKey_ne _ _ _ fun he => by rw [he, hold] at hkey; cases hkey]
      exact hkey
    have hhandle : t.handleOf i = s.handleOf i := State.handleOf_congr (hpending i).2
    refine hdropped.add (if_pos rfl) hnone (hhandle ▸ hadded) hother rfl ?_ fun j hj => ⟨?_, State.handleOf_congr (hpending j).2⟩
    · exact State.keyAt_eq_some.2 ⟨ses', st', by rw [hself], rfl⟩
    · rw [if_neg hj]
      exact State.keyAt_congr (hne j hj)

theorem StoreExact.relocate {s : State} (h : StoreExact s) {i : Nat} {ses : Session} {st : Stage} {target : CellIx}
    (hl : s.liveAt i = some (ses, st)) (hr : s.moveRefusal ses target = none) : StoreExact (s.relocate i ses st target) := by
  have hrekeyed := h.rekey hl (ses' := s.movedSession ses target) (State.findKey_of_moveRefusal hr) (st.restamped s.tick)
  have hmoved : StoreExact ((((((s.subA ses.key.cell ses.demand).leaveRank ses.key.cell i).dropKey ses.key).setLive i
      (s.movedSession ses target) (st.restamped s.tick)).addKey (s.movedSession ses target).key (s.handleOf i))) :=
    hrekeyed.same rfl rfl rfl
  exact hmoved.relived (((Relived.countSetup ..).trans (.recompute ..)).trans (.recompute ..))

/-! ### Events inside the tables -/

theorem keepsTables_store : KeepsTables StoreExact where
  raised i kind cause h := h.relived (.raiseSession ..)
  retired h _ ht := by
    rcases ht with rfl | ⟨kind, cause, rfl⟩
    · exact (h.relived (.giveUp ..)).retire _
    · exact (h.relived ((Relived.giveUp ..).trans (.raiseSession ..))).retire _
  displaced h _ := (h.relived (.raiseSession ..)).retire _
  served {s c i _ ses _} h _ hl := by
    have hleft : Relived s (s.leaveQueue c i) := .of_store rfl rfl rfl
    have hset : Relived s ((s.leaveQueue c i).setLive i ses (setupStage s.tick ses)) :=
      hleft.trans (.setLive (s := s.leaveQueue c i) (State.keyAt_of_live hl) _)
    exact h.relived (((hset.trans (.countSetup ..)).trans (.raiseSession ..)).trans (.recompute ..))
  heldHead {s c i _ vs ses _} h _ hl _ _ := by
    have htaken : Relived s ((s.leaveQueue c i).takeVictims (s.handleOf i) c vs) :=
      Relived.trans (t := s.leaveQueue c i) (.of_store rfl rfl rfl) (.takeVictims ..)
    have hset := htaken.trans (.setLive ((htaken.keys i).trans (State.keyAt_of_live hl)) (s.heldStage c ses vs))
    exact h.relived ((hset.trans (.modCell ..)).trans (.recompute ..))
  admitted {s ses} h hn :=
    (h.takeRecord hn.2.1 (setupStage s.tick ses)).relived ((Relived.countSetup ..).trans (.recompute ..))
  preempted {s ses vs} h hn _ _ := by
    have hvictims : Relived s (s.takeVictims (s.handleOf s.nextFree) ses.key.cell vs) := .takeVictims ..
    have htaken := (h.relived hvictims).takeRecord (ses := ses) ((hvictims.findKey _).trans hn.2.1)
      (s.heldStage ses.key.cell ses vs)
    exact htaken.relived ((Relived.modCell ..).trans (.recompute ..))
  enqueued {s ses} h hn := (h.takeRecord hn.2.1 (s.queuedStage ses)).same rfl rfl rfl
  confirmed h hl := h.relived (.setLive (State.keyAt_of_live hl) _)
  tagged {s i ses st} tags h hl :=
    h.relived (.setLive (ses := { ses with tags := tags }) (State.keyAt_of_live (ses := ses) hl) st)
  decreased {s i d ses st} h hl _ _ _ := by
    have hset : Relived s (s.setLive i { ses with demand := d } st) :=
      .setLive (ses := { ses with demand := d }) (State.keyAt_of_live (ses := ses) hl) st
    exact h.relived ((hset.trans (.modCell ..)).trans (.recompute ..))
  increased {s i d ses st} h hl _ _ := by
    have hset : Relived s (s.setLive i { ses with demand := d } st) :=
      .setLive (ses := { ses with demand := d }) (State.keyAt_of_live (ses := ses) hl) st
    exact h.relived ((hset.trans (.modCell ..)).trans (.recompute ..))
  moved h hl _ hr := h.relocate hl hr
  fetched p k h := h.fetchNotices p k

/-! ### Resets -/

theorem sparseFind_resetRecords {l : List (Nat × Record)} (h : l.Pairwise fun a b => a.1 < b.1) (i : Nat) :
    (sparseFind (resetRecords l) i).getD Record.fresh = ((sparseFind l i).getD Record.fresh).afterReset := by
  induction l with
  | nil => rfl
  | cons e rest ih =>
    obtain ⟨hfirst, hrest⟩ := List.pairwise_cons.1 h
    have hcons : resetRecords (e :: rest)
        = (if e.2.afterReset ≠ Record.fresh then [(e.1, e.2.afterReset)] else []) ++ resetRecords rest := by
      unfold resetRecords
      rw [List.map_cons, List.filter_cons]
      split <;> simp_all
    have habsent : e.1 = i → sparseFind (resetRecords rest) i = none := by
      intro he
      cases hf : sparseFind (resetRecords rest) i with
      | none => rfl
      | some r =>
        obtain ⟨x, hx, hxe⟩ := List.mem_map.1 (List.mem_filter.1 (sparseFind_mem hf)).1
        have hxi : x.1 = i := congrArg Prod.fst hxe
        exact absurd (hfirst x hx) (by omega)
    by_cases hn : e.2.afterReset = Record.fresh <;> by_cases he : e.1 = i
    · simp [hcons, hn, sparseFind, he, habsent he]
    · simpa [hcons, hn, sparseFind, he] using ih hrest
    · simp [hcons, hn, sparseFind, he]
    · simpa [hcons, hn, sparseFind, he] using ih hrest

/-- What a record is after a Table Reset (R14). -/
theorem State.record_resetTable {s : State} (h : s.storeCanonical = true) (i : Nat) :
    s.resetTable.record i = (s.record i).afterReset := by
  unfold State.storeCanonical at h
  simp only [Bool.and_eq_true] at h
  exact sparseFind_resetRecords ((sparseSorted_iff _).1 h.1.1) i

theorem Record.afterReset_life (r : Record) : r.afterReset.life = .free ∧ r.afterReset.pending = none := by
  unfold Record.afterReset
  split <;> exact ⟨rfl, rfl⟩

theorem Record.afterReset_generation {r : Record} (h : 1 ≤ r.generation ∧ r.generation ≤ 255) :
    1 ≤ r.afterReset.generation ∧ r.afterReset.generation ≤ 255 := by
  unfold Record.afterReset
  split
  · exact h
  · exact nextGeneration_inRange h

/-- All records FREE with no pending notice, all on the free list, no directory entry. -/
theorem StoreExact.of_free {s : State} (hfree : ∀ i, (s.record i).life = .free ∧ (s.record i).pending = none)
    (hgeneration : ∀ i, 1 ≤ (s.record i).generation ∧ (s.record i).generation ≤ 255)
    (hlist : s.freeList = List.range Config.recordCount) (hkeys : ∀ k, s.findKey k = none) (hcanonical : s.storeCanonical = true) :
    StoreExact s := by
  refine ⟨?_, fun i => ?_, fun i hi => absurd (hfree i).1 hi, fun i _ => (hfree i).2, fun i hi => ?_, hgeneration, fun k h => ?_,
    hcanonical⟩
  · rw [hlist]
    exact List.nodup_range
  · rw [hlist, List.mem_range]
    exact ⟨fun h => ⟨h, (hfree i).1⟩, fun h => h.1⟩
  · rw [(hfree i).1] at hi
    cases hi
  · rw [hkeys k, State.keyAt_eq_none.2 (.inl (hfree h.index).1)]
    exact ⟨fun hn => (nomatch hn), fun hn => (nomatch hn.1)⟩

theorem State.resetTable_canonical {s : State} (h : s.storeCanonical = true) : s.resetTable.storeCanonical = true := by
  unfold State.storeCanonical at h
  simp only [Bool.and_eq_true] at h
  have hsorted := (sparseSorted_iff _).1 h.1.1
  have hreset : sparseSorted (resetRecords s.records) = true := by
    rw [sparseSorted_iff]
    refine List.Pairwise.filter _ ?_
    rw [List.pairwise_map]
    exact hsorted
  have hlisted : (resetRecords s.records).all (fun e => decide (e.2 ≠ Record.fresh)) = true :=
    List.all_eq_true.2 fun e he => (List.mem_filter.1 he).2
  show (sparseSorted (resetRecords s.records) && (resetRecords s.records).all (fun e => decide (e.2 ≠ Record.fresh))
    && sparseSorted ([] : List (Nat × Handle))) = true
  rw [hreset, hlisted]
  rfl

theorem State.freeList_resetTable (s : State) : s.resetTable.freeList = List.range Config.recordCount := by
  unfold State.resetTable
  rw [State.chooseJob_freeList]

theorem State.findKey_resetTable (s : State) (k : Key) : s.resetTable.findKey k = none := by
  unfold State.resetTable
  rw [State.chooseJob_findKey]
  rfl

theorem StoreExact.tableReset {s : State} (h : StoreExact s) : StoreExact s.resetTable := by
  have hrecord := State.record_resetTable h.canonical
  refine .of_free (fun i => ?_) (fun i => ?_) s.freeList_resetTable s.findKey_resetTable (State.resetTable_canonical h.canonical)
  · rw [hrecord]
    exact Record.afterReset_life _
  · rw [hrecord]
    exact Record.afterReset_generation (h.generation i)

theorem storeExact_reset : StoreExact State.reset :=
  .of_free (fun i => by rw [State.record_reset]; exact ⟨rfl, rfl⟩) (fun i => by rw [State.record_reset]; decide)
    (by simp only [State.reset]) (fun _ => rfl) rfl

/-! ### Every event -/

theorem StoreExact.handOver {s : State} (h : StoreExact s) (l : Lane) (p : PortIx) : StoreExact (s.handOver l p) :=
  h.same (by simp) (by simp) (by simp)

theorem StoreExact.enterDraining {s : State} (h : StoreExact s) (p : PortIx) : StoreExact (s.enterDraining p) := by
  have haway : StoreExact (s.turnAway p) := h.same rfl rfl rfl
  exact (haway.clearNotices p).same rfl rfl rfl

theorem StoreExact.acceptFrame {s : State} (h : StoreExact s) (p : PortIx) (r : Request) : StoreExact (s.acceptFrame p r) := by
  unfold State.acceptFrame State.placeRequest
  split
  · exact h.same rfl rfl rfl
  · split <;> exact h.same rfl rfl rfl

theorem StoreExact.closeCell {s : State} (h : StoreExact s) (c : CellIx) : StoreExact (s.closeCell c) := by
  unfold State.closeCell
  dsimp only
  split
  · exact h.same rfl rfl rfl
  · exact h.same (by simp) (by simp) (by simp)

theorem StoreExact.storePart {s : State} (h : StoreExact s) (f : Field) (part : Part) (b : Byte) :
    StoreExact (s.storePart f part b) := by
  cases part with
  | whole =>
    simp only [State.storePart, State.storeByte]
    split <;> exact h.same rfl rfl rfl
  | high =>
    simp only [State.storePart]
    split <;> exact h.same rfl rfl rfl
  | low =>
    simp only [State.storePart, State.storeHalf]
    split <;> exact h.same rfl rfl rfl

theorem keepsEvents_store : KeepsEvents StoreExact where
  toKeepsTables := keepsTables_store
  handedOver h _ := h.handOver _ _
  answered _ _ _ h := h.same rfl rfl rfl
  discarded _ h := h.same rfl rfl rfl
  arrived p r h := h.acceptFrame p r
  sent _ _ h _ := h.same rfl rfl rfl
  withdrawn {s l p r} h _ :=
    StoreExact.enterDraining (s := (s.handOver l p).answer p r (bare .ok)) ((h.handOver l p).same rfl rfl rfl) p
  expired {s p} h _ := (h.enterDraining p).same rfl rfl rfl
  pulseEnded h _ := h.same rfl rfl rfl
  begun {s j} h _ _ := by cases j <;> exact h.same rfl rfl rfl
  cellDrained {s c} h _ _ := (h.closeCell c).same rfl rfl rfl
  portDrained h _ _ := h.same rfl rfl rfl
  accessed _ _ _ _ h := h.same rfl rfl rfl
  tableOpened h := h.same rfl rfl rfl
  tableReset h := h.tableReset
  opened {s c} h _ := h.same (by simp [State.commandDone]) (by simp [State.commandDone]) (by simp [State.commandDone])
  barred h _ := h.same rfl rfl rfl
  unbarred h _ := h.same rfl rfl rfl
  draining h _ := h.same rfl rfl rfl
  stopped h _ := h.same rfl rfl rfl
  refused _ h := h.same rfl rfl rfl
  watchRestarted h := h.same rfl rfl rfl
  attention _ _ h := h.same rfl rfl rfl
  pulseWidth _ _ h := h.same rfl rfl rfl
  ringSize _ _ h := h.same rfl rfl rfl
  eventsSet _ _ h := h.same rfl rfl rfl

theorem Record.reweighted_frame (r : Record) (w : Nat) : (r.reweighted w).generation = r.generation
    ∧ ((r.reweighted w).life = .free ↔ r.life = .free) ∧ ((r.reweighted w).life = .spent ↔ r.life = .spent)
    ∧ (r.reweighted w = Record.fresh ↔ r = Record.fresh) := by
  unfold Record.reweighted
  split
  · next hl =>
    refine ⟨rfl, by simp [hl], by simp [hl], ?_⟩
    constructor
    · intro he
      exact absurd (congrArg Record.life he) (by simp [Record.fresh])
    · intro he
      rw [he] at hl
      cases hl
  · exact ⟨rfl, Iff.rfl, Iff.rfl, Iff.rfl⟩

theorem Record.reweighted_live {r : Record} {ses : Session} (w : Nat) (h : ∃ st, r.life = .live ses st) :
    ∃ st, (r.reweighted w).life = .live ses st := by
  obtain ⟨st, h⟩ := h
  unfold Record.reweighted
  split
  · next ses' _ _ _ hl =>
    rw [h] at hl
    cases hl
    exact ⟨_, rfl⟩
  · exact ⟨st, h⟩

/-- A write of the aging weight changes the virtual arrivals of QUEUED records alone (R73). -/
theorem Relived.reweigh (s : State) (w : Nat) : Relived s (s.reweigh w) := by
  have hrecord := s.record_reweigh w
  refine ⟨fun i => ?_, fun i => ?_, fun i => ?_, fun i => ?_, fun i _ => ?_, rfl, rfl, fun h => ?_⟩
  · rw [hrecord, (Record.reweighted_frame _ w).1]
  · rw [hrecord, (Record.reweighted_frame _ w).2.1]
  · rw [hrecord, (Record.reweighted_frame _ w).2.2.1]
  · cases hk : s.keyAt i with
    | none =>
      rcases State.keyAt_eq_none.1 hk with hl | hl
      · exact State.keyAt_eq_none.2 (.inl (by rwa [hrecord, (Record.reweighted_frame _ w).2.1]))
      · exact State.keyAt_eq_none.2 (.inr (by rwa [hrecord, (Record.reweighted_frame _ w).2.2.1]))
    | some k =>
      obtain ⟨ses, st, hl, hses⟩ := State.keyAt_eq_some.1 hk
      obtain ⟨st', hl'⟩ := Record.reweighted_live w ⟨st, hl⟩
      exact State.keyAt_eq_some.2 ⟨ses, st', by rw [hrecord, hl'], hses⟩
  · rw [hrecord, Record.reweighted_pending]
  · unfold State.storeCanonical at h ⊢
    simp only [Bool.and_eq_true, List.all_eq_true, decide_eq_true_eq] at h ⊢
    obtain ⟨⟨hsorted, hlisted⟩, hdirectory⟩ := h
    refine ⟨⟨?_, fun e he => ?_⟩, hdirectory⟩
    · rw [sparseSorted_iff] at hsorted ⊢
      show (s.records.map fun (e : Nat × Record) => (e.1, e.2.reweighted w)).Pairwise _
      rw [List.pairwise_map]
      exact hsorted
    · have he : e ∈ s.records.map fun (e : Nat × Record) => (e.1, e.2.reweighted w) := he
      obtain ⟨x, hx, rfl⟩ := List.mem_map.1 he
      exact fun hn => hlisted x hx ((Record.reweighted_frame _ w).2.2.2.1 hn)

theorem keepsAll_store : KeepsAll StoreExact where
  toKeepsEvents := keepsEvents_store
  pinReset _ := storeExact_reset.same rfl (by dsimp only) rfl
  ticked _ _ h := h.same rfl rfl rfl
  stored f part b h := h.storePart f part b
  capacity h _ := h.same (by simp) (by simp) (by simp)
  floor h _ := h.same rfl rfl rfl
  threshold1 _ _ h := h.same (by simp) (by simp) (by simp)
  threshold2 _ _ h := h.same (by simp) (by simp) (by simp)
  threshold3 _ _ h := h.same (by simp) (by simp) (by simp)
  owner _ h _ _ := h.same rfl rfl rfl
  depthLimit _ _ h := h.same rfl rfl rfl
  reweighed v h := h.relived (.reweigh _ _)
  supervision _ h := h.same rfl rfl rfl

/-- Settles O8, by what each event does to a record's life and key: it stays, is taken from the free list, retires, gives its
entry back, or takes another key. -/
theorem recordStoreStaysExact : Obligations.RecordStoreStaysExact := by
  intro s t h hstep
  exact (storeExact_iff t).2 (keepsAll_store.step (fun _ h => h.same rfl rfl rfl) ((storeExact_iff s).1 h) hstep)

end Sys2Proof.Machine
end

section
/-! Proofs about pin reset and Table Reset of the accounts: the state right after pin reset meets the invariants. -/

namespace Sys2Proof.Machine

/-! ### Accounts without live records -/

/-- Without live records the empty accounts are exact. -/
theorem State.accountsExact_of_empty {s : State} (hlive : ∀ i, s.liveAt i = none)
    (hcells : ∀ c, (s.cell c).countA = 0 ∧ (s.cell c).countC = 0 ∧ (s.cell c).countR = 0 ∧ (s.cell c).queue = []
      ∧ (s.cell c).enqueueOrder = [] ∧ (s.cell c).rankList = []) : s.accountsExact := by
  have hnone (c : CellIx) : s.liveIn c = [] := by
    refine List.eq_nil_iff_forall_not_mem.2 fun i hi => ?_
    obtain ⟨ses, st, hl, -⟩ := State.mem_liveIn.1 hi
    rw [hlive i] at hl
    cases hl
  have hsum (c : CellIx) (f : Session → Stage → Nat) : s.sumOver c f = 0 := by
    unfold State.sumOver
    rw [hnone c]
    rfl
  refine ⟨fun c => ?_, fun i => ⟨?_, ?_⟩, fun i ses st hl => ?_⟩
  · obtain ⟨ha, hc, hr, hq, he, hk⟩ := hcells c
    unfold State.cellExact
    rw [ha, hc, hr, hq, he, hk, hsum, hsum, hsum]
    simp [hlive]
  · intro ses vs need reserved collected hl
    rw [hlive i] at hl
    cases hl
  · intro ses stamp b deadline hl
    rw [hlive i] at hl
    cases hl
  · rw [hlive i] at hl
    cases hl

theorem accountsExact_reset : State.reset.accountsExact :=
  State.accountsExact_of_empty (fun _ => rfl) fun c => by
    rw [State.cell_reset]
    exact ⟨rfl, rfl, rfl, rfl, rfl, rfl⟩

/-- Settles O11, by the base case of each invariant. -/
theorem resetMeetsTheInvariants : Obligations.ResetMeetsTheInvariants := by
  obtain ⟨hrange, hlanes⟩ := (settingsSound_iff _).1 settingsSound_reset
  exact ⟨State.reset_interruptFollows, (storeExact_iff _).2 storeExact_reset, (backlogExact_iff _).2 backlogExact_reset,
    accountsExact_reset, hrange, engineExact_reset, LevelsFollow.reset, fun p =>
      ⟨(noticesBounded_reset.ports p).bounded, (noticesBounded_reset.ports p).follows, (noticesBounded_reset.ports p).drained,
        hlanes p⟩⟩

/-- Settles O12, by the reset value of each block. -/
theorem pinResetLeavesTheResetValues : Obligations.PinResetLeavesTheResetValues := by
  intro s
  refine ⟨_, rfl, rfl, rfl, fun _ => rfl, ?_, fun _ => rfl, fun c => ?_, fun k => ?_, fun p => ?_, rfl, rfl, rfl, rfl, rfl, rfl,
    rfl, rfl, rfl, rfl, rfl, rfl, rfl⟩
  · simp only [State.reset, Config.recordCount]
  · have hc : State.cell { State.reset with pending := s.pending, freeDraws := s.freeDraws } c = Cell.reset := State.cell_reset c
    rw [hc]
    exact ⟨rfl, rfl, rfl, rfl, rfl, rfl, rfl, rfl, rfl, rfl, rfl, rfl, rfl, rfl, rfl, rfl, rfl⟩
  · exact State.classAt_reset k
  · have hp : State.port { State.reset with pending := s.pending, freeDraws := s.freeDraws } p = Port.reset := State.port_reset p
    rw [hp]
    exact ⟨rfl, rfl, rfl, rfl, rfl, rfl, rfl, rfl, rfl, rfl, rfl, rfl, rfl, rfl, rfl⟩

end Sys2Proof.Machine
end

section
/-! Proofs of the statements about management events, the arrival of frames, the transmit order and the arbiter (chapters 10
and 11). -/

namespace Sys2Proof.Machine

/-- A change of one port leaves the others. -/
theorem State.portsKept_modPort (s : State) (p : PortIx) (f : Port → Port) : PortsKept s (s.modPort p f) [p] := by
  intro o ho
  exact s.port_modPort_ne p o f (by simpa using ho)

/-! ### Management events -/

/-- A write transaction at an address is a write access there (R175). -/
theorem State.writesAt_of {s : State} {t : Transaction} {a : Nat} (h : s.transaction = some t) (hd : t.direction = .write)
    (ha : t.address = BitVec.ofNat 16 a) : s.writesAt a := by
  obtain ⟨d, x⟩ := t
  cases hd
  cases ha
  exact h

/-- Settles O14, by the effect of the two writes and of a raising on the flags. -/
theorem eventWritesMoveTheInterruptLine : Obligations.EventWritesMoveTheInterruptLine := by
  refine ⟨fun s b t0 ht hd ha => ?_, fun s b t0 ht hd ha => ?_, fun s flag => ⟨rfl, rfl⟩⟩
  · have hw : s.writesAt 0x19 := State.writesAt_of ht hd ha
    have hf : s.writeField = some (.eventRaw, .low) := (State.writeField_of hw).trans (by decide)
    refine ⟨(s.setEvents (s.eventRaw &&& ~~~eventBits (s.delivered b)) s.eventEnable).advance, ?_, fun k => ?_, rfl, ?_, rfl⟩
    · show execEventRawWrite b s = _
      unfold execEventRawWrite
      rw [hf]
    · show (s.eventRaw &&& ~~~eventBits (s.delivered b)).getLsbD k = _
      rw [BitVec.getLsbD_and, BitVec.getLsbD_not, eventBits, BitVec.getLsbD_setWidth, State.delivered]
      by_cases hk : k < 10
      · simp [hk]
      · simp [BitVec.getLsbD_of_ge s.eventRaw k (by omega)]
    · exact congrArg State.transaction (State.advance_past (s := s) hw rfl)
  · have hw : s.writesAt 0x1B := State.writesAt_of ht hd ha
    have hf : s.writeField = some (.eventEnable, .low) := (State.writeField_of hw).trans (by decide)
    refine ⟨(s.setEvents s.eventRaw (eventBits (s.delivered b))).advance, ?_, fun k hk => ?_, rfl, ?_, rfl⟩
    · show execEventEnableWrite b s = _
      unfold execEventEnableWrite
      rw [hf]
    · show (eventBits (s.delivered b)).getLsbD k = _
      rw [eventBits, BitVec.getLsbD_setWidth, State.delivered]
      simp [hk]
    · exact congrArg State.transaction (State.advance_past (s := s) hw rfl)

/-! ### Frames -/

/-- A whole frame is judged by its own check, kind and body length (R164). -/
theorem readFrame_whole {kind flags th tl len c1 c2 : Byte} {body : List Byte} (h : body.length = len.toNat) :
    readFrame (0xA6#8 :: kind :: flags :: th :: tl :: len :: (body ++ [c1, c2]))
      = judgeFrame kind flags th tl len (body ++ [c1, c2]) := by
  unfold readFrame
  exact if_pos ⟨rfl, by simp [h]⟩

/-- The body of a whole frame, and the check it carries. -/
theorem frame_parts {len c1 c2 : Byte} {body : List Byte} (h : body.length = len.toNat) :
    (body ++ [c1, c2]).take len.toNat = body
      ∧ (body ++ [c1, c2]).getD len.toNat 0 ++ (body ++ [c1, c2]).getD (len.toNat + 1) 0 = c1 ++ c2 := by
  rw [← h]
  simp

/-- A whole frame that fails one of the three conditions of R164 is bad. -/
theorem readFrame_bad {kind flags th tl len c1 c2 : Byte} {body : List Byte} (h : body.length = len.toNat)
    (hbad : frameCheck ([kind, flags, th, tl, len] ++ body) ≠ c1 ++ c2
      ∨ kindOfCode kind = none ∨ ∃ k, kindOfCode kind = some k ∧ k.bodyLength ≠ len.toNat) :
    readFrame (0xA6#8 :: kind :: flags :: th :: tl :: len :: (body ++ [c1, c2])) = .bad := by
  obtain ⟨hbody, hcheck⟩ := frame_parts (c1 := c1) (c2 := c2) h
  rw [readFrame_whole h]
  unfold judgeFrame
  simp only [hbody, hcheck]
  cases hk : kindOfCode kind with
  | none => rfl
  | some k =>
    refine if_neg fun ⟨h1, h2⟩ => ?_
    rcases hbad with hb | hb | ⟨l, hl, hb⟩
    · exact hb h1
    · simp [hk] at hb
    · rw [hk] at hl
      cases hl
      exact hb h2.symm

theorem kindOfCode_code (k : RequestKind) : kindOfCode k.code = some k := by cases k <;> rfl

theorem RequestKind.bodyLength_toNat (k : RequestKind) : (BitVec.ofNat 8 k.bodyLength).toNat = k.bodyLength := by
  cases k <;> rfl

/-- A whole frame that meets the three conditions of R164 carries its request. -/
theorem readFrame_valid {k : RequestKind} {flags th tl c1 c2 : Byte} {body : List Byte} (h : body.length = k.bodyLength)
    (hcheck : frameCheck ([k.code, flags, th, tl, BitVec.ofNat 8 k.bodyLength] ++ body) = c1 ++ c2) :
    readFrame (0xA6#8 :: k.code :: flags :: th :: tl :: BitVec.ofNat 8 k.bodyLength :: (body ++ [c1, c2]))
      = .valid (Request.mk k flags (th ++ tl) body) := by
  have hlen : body.length = (BitVec.ofNat 8 k.bodyLength).toNat := h.trans k.bodyLength_toNat.symm
  obtain ⟨hbody, hreceived⟩ := frame_parts (c1 := c1) (c2 := c2) hlen
  rw [readFrame_whole hlen]
  unfold judgeFrame
  simp only [hbody, hreceived, kindOfCode_code]
  exact if_pos ⟨hcheck, k.bodyLength_toNat⟩

theorem linkErrorEvent_eq (p : PortIx) : linkErrorEvent p = 1#10 <<< (4 + p.val) := by
  revert p
  decide

/-- Settles O15: the frame is read as a bad one, which is counted. -/
theorem invalidFramesAreCountedAndDiscarded : Obligations.InvalidFramesAreCountedAndDiscarded := by
  intro s p kind flags th tl len c1 c2 body hlen hbad
  have hkept := s.portsKept_modPort p fun q => { q with errorCount := min 65535 (q.errorCount + 1) }
  have hself := s.port_modPort_self p fun q => { q with errorCount := min 65535 (q.errorCount + 1) }
  refine ⟨s.discardFrame p, ?_, hself, hkept, ?_, rfl, rfl⟩
  · show execFrameArrival p _ s = _
    unfold execFrameArrival
    rw [readFrame_bad hlen hbad]
  · show s.eventRaw ||| linkErrorEvent p = _
    rw [linkErrorEvent_eq]

/-- The lane of a frame (R167). -/
theorem Request.lane_urgent (r : Request) :
    r.lane = .urgent ↔ r.flags.getLsbD 0 = true ∧ (r.kind = .admission ∨ r.kind = .release) := by
  unfold Request.lane Request.urgentFlag
  split
  · next h => simpa using h
  · next h => simpa using h

theorem Lane.size_eq (l : Lane) : l.size = if l = .urgent then 8 else 32 := by cases l <;> rfl

/-- A lane is not touched by the port's coming up. -/
theorem Port.lane_up (q : Port) (l : Lane) (now : Tick) :
    ({ q with state := .up, timestamp := now } : Port).lane l = q.lane l := by cases l <;> rfl

/-- A valid frame changes its port alone. -/
theorem State.acceptFrame_frame (s : State) (p : PortIx) (r : Request) :
    PortsKept s (s.acceptFrame p r) [p] ∧ { s.acceptFrame p r with ports := s.ports } = s := by
  have frames (t : State) (f : Port → Port) (h : PortsKept s t [p] ∧ { t with ports := s.ports } = s) :
      PortsKept s (t.modPort p f) [p] ∧ { t.modPort p f with ports := s.ports } = s :=
    ⟨fun o ho => (State.portsKept_modPort t p f o ho).trans (h.1 o ho), h.2⟩
  have self : PortsKept s s [p] ∧ { s with ports := s.ports } = s := ⟨fun _ _ => rfl, rfl⟩
  unfold State.acceptFrame
  split
  · exact frames _ _ self
  · unfold State.placeRequest
    split
    · exact frames _ _ (frames _ _ self)
    · exact frames _ _ (frames _ _ self)

/-- Settles O16, by the state of the port and the room in the lane. -/
theorem validFramesArePlacedOrAnswered : Obligations.ValidFramesArePlacedOrAnswered := by
  intro s p k flags th tl c1 c2 body r hlen hcheck hr
  obtain ⟨hports, hframe⟩ := s.acceptFrame_frame p r
  refine ⟨s.acceptFrame p r, ?_, hports, hframe, by rw [r.lane_urgent, hr], fun hd => ?_, fun hd => ?_⟩
  · show execFrameArrival p _ s = _
    unfold execFrameArrival
    rw [readFrame_valid hlen hcheck, hr]
  · unfold State.acceptFrame State.answer
    rw [if_pos hd, State.port_modPort_self, hr]
    rfl
  · unfold State.acceptFrame State.placeRequest State.answer
    rw [if_neg hd, State.port_modPort_self, Port.lane_up, Lane.size_eq]
    by_cases hroom : ((s.port p).lane r.lane).length < if r.lane = .urgent then 8 else 32
    · rw [if_pos hroom, if_pos hroom, State.port_modPort_self, State.port_modPort_self, Port.lane_up]
    · rw [if_neg hroom, if_neg hroom, State.port_modPort_self, State.port_modPort_self, hr]
      rfl

/-- Settles O17, by the effect on the port. -/
theorem responsesJoinAndLeaveTheTransmitOrder : Obligations.ResponsesJoinAndLeaveTheTransmitOrder := by
  refine ⟨fun s p r rest h => ?_, fun s p r a => ⟨s.port_modPort_self p _, s.portsKept_modPort p _, rfl⟩⟩
  obtain ⟨f, hf⟩ : ∃ f : Port → Port,
      f = fun q => { q with transmit := rest, sent := r.frame (s.drawBits 0) (s.drawBits 1) (s.drawBits 2) } := ⟨_, rfl⟩
  refine ⟨{ s.modPort p f with freeDraws := s.freeDraws + 3 }, s.drawBits 0, s.drawBits 1, s.drawBits 2, ?_, ?_,
    s.portsKept_modPort p f, rfl⟩
  · show execResponseSent p s = _
    unfold execResponseSent
    rw [h, hf]
  · exact (s.port_modPort_self p f).trans (by rw [hf])

/-! ### The arbiter -/

/-- What the search along a list of ports finds (R169): the first port whose lane is not empty, with the lane's head. -/
theorem State.firstWaiting_spec (s : State) (l : Lane) (ports : List PortIx) :
    (s.firstWaiting l ports = none ↔ ∀ p ∈ ports, (s.port p).lane l = [])
      ∧ ∀ p r, s.firstWaiting l ports = some (p, r) → ((s.port p).lane l).head? = some r
        ∧ ∃ before after, ports = before ++ p :: after ∧ ∀ o ∈ before, (s.port o).lane l = [] := by
  induction ports with
  | nil => simp [State.firstWaiting]
  | cons q rest ih =>
    obtain ⟨hnone, hsome⟩ := ih
    unfold State.firstWaiting
    cases hq : (s.port q).lane l with
    | nil =>
      refine ⟨by simp [hnone, hq], fun p r h => ?_⟩
      obtain ⟨hhead, before, after, rfl, hempty⟩ := hsome p r h
      refine ⟨hhead, q :: before, after, rfl, ?_⟩
      rintro o ho
      rcases List.mem_cons.1 ho with rfl | ho
      · exact hq
      · exact hempty o ho
    | cons r tail =>
      refine ⟨by simp [hq], ?_⟩
      rintro _ _ ⟨⟩
      exact ⟨by rw [hq]; rfl, [], rest, rfl, by simp⟩

theorem mem_laneOrder (last p : PortIx) : p ∈ laneOrder last := by
  revert last p
  decide

/-- The order of the arbiter is round robin from the port after the pointer (R169). -/
theorem laneOrder_pairwise (last : PortIx) : (laneOrder last).Pairwise fun o p => (o - last - 1).val < (p - last - 1).val := by
  revert last
  decide

/-- A port earlier in round-robin order than one of the search order stands before it. -/
theorem mem_before_of_laneOrder {last o p : PortIx} {before after : List PortIx} (h : laneOrder last = before ++ p :: after)
    (hlt : (o - last - 1).val < (p - last - 1).val) : o ∈ before := by
  have hpair := laneOrder_pairwise last
  have hmem := mem_laneOrder last o
  rw [h] at hpair hmem
  have hafter := (List.pairwise_cons.1 (List.pairwise_append.1 hpair).2.1).1
  rcases List.mem_append.1 hmem with hb | hb
  · exact hb
  · rcases List.mem_cons.1 hb with rfl | hb
    · exact absurd hlt (lt_irrefl _)
    · exact absurd hlt (lt_asymm (hafter o hb))

/-- What the search from a pointer finds, in the terms of R169. -/
theorem State.firstWaiting_laneOrder (s : State) (l : Lane) (last : PortIx) :
    (s.firstWaiting l (laneOrder last) = none ↔ ∀ p, (s.port p).lane l = [])
      ∧ ∀ p r, s.firstWaiting l (laneOrder last) = some (p, r) → ((s.port p).lane l).head? = some r
        ∧ ∀ o : PortIx, (o - last - 1).val < (p - last - 1).val → (s.port o).lane l = [] := by
  obtain ⟨hnone, hsome⟩ := s.firstWaiting_spec l (laneOrder last)
  refine ⟨by simp [hnone, mem_laneOrder], fun p r h => ?_⟩
  obtain ⟨hhead, before, after, hsplit, hempty⟩ := hsome p r h
  exact ⟨hhead, fun o ho => hempty o (mem_before_of_laneOrder hsplit ho)⟩

/-- What the hand-over of a request does (R169). -/
theorem State.handOver_effect (s : State) (l : Lane) (p : PortIx) :
    ((s.handOver l p).port p).setLane l ((s.port p).lane l) = s.port p
      ∧ ((s.handOver l p).port p).lane l = ((s.port p).lane l).tail
      ∧ PortsKept s (s.handOver l p) [p]
      ∧ (s.handOver l p).urgentLast = (if l = .urgent then p else s.urgentLast)
      ∧ (s.handOver l p).normalLast = (if l = .urgent then s.normalLast else p)
      ∧ { s.handOver l p with ports := s.ports, urgentLast := s.urgentLast, normalLast := s.normalLast } = s := by
  have hports : PortsKept s (s.handOver l p) [p] := by
    intro o ho
    exact ((s.setPointer l p).port_modPort_ne p o _ (by simpa using ho)).trans (by cases l <;> rfl)
  have hport : (s.handOver l p).port p = (s.port p).setLane l ((s.port p).lane l).tail :=
    ((s.setPointer l p).port_modPort_self p _).trans (by cases l <;> rfl)
  rw [hport]
  cases l with
  | urgent => exact ⟨rfl, rfl, hports, rfl, rfl, rfl⟩
  | normal => exact ⟨rfl, rfl, hports, rfl, rfl, rfl⟩

/-- Settles O19, by the search along the urgent lanes and then along the normal ones. -/
theorem theArbiterServesUrgentLanesFirstInTurn : Obligations.TheArbiterServesUrgentLanesFirstInTurn := by
  intro s
  obtain ⟨hurgent, urgent⟩ := s.firstWaiting_laneOrder .urgent s.urgentLast
  obtain ⟨hnormal, normal⟩ := s.firstWaiting_laneOrder .normal s.normalLast
  unfold State.arbiterChoice
  cases hu : s.firstWaiting .urgent (laneOrder s.urgentLast) with
  | some x =>
    obtain ⟨q, y⟩ := x
    refine ⟨?_, ?_⟩
    · simp only [reduceCtorEq, false_iff]
      intro hempty
      rw [hurgent.2 fun p => (hempty p).1] at hu
      cases hu
    · rintro _ _ _ ⟨⟩
      obtain ⟨hhead, hbefore⟩ := urgent q y hu
      exact ⟨hhead, nofun, hbefore, s.handOver_effect _ q⟩
  | none =>
    have hempty := hurgent.1 hu
    refine ⟨?_, fun l p r h => ?_⟩
    · rw [Option.map_eq_none_iff, hnormal]
      exact ⟨fun hn p => ⟨hempty p, hn p⟩, fun hn p => (hn p).2⟩
    · obtain ⟨⟨q, y⟩, hf, hx⟩ := Option.map_eq_some_iff.1 h
      cases hx
      obtain ⟨hhead, hbefore⟩ := normal q y hf
      exact ⟨hhead, fun _ => hempty, hbefore, s.handOver_effect _ q⟩

end Sys2Proof.Machine
end

section
/-! Proofs of the statements about the answers that come before a request's own rule, and of those about Lookup, Query, Cell
Status, Null and the refusals of a Move. -/

namespace Sys2Proof.Machine

/-! ### The checks before a request's own rule -/

/-- The check that answers BAD_REQUEST for a request (R41, R173). -/
def State.badRequest (s : State) (l : Lane) (r : Request) : Bool :=
  r.malformed || (decide (r.kind = .admission) && s.urgentMisuse l r)

section
variable {s : State} {l : Lane} {p : PortIx} {r : Request} {ses : Session} {st : Stage}

/-- A request the arbiter hands over is taken by the engine, which checks the table and the body first (R171, R173). -/
theorem State.serve_engine {i : Instr} {wanted : Request → Bool} {bad : Lane → Request → State → Bool}
    {act : PortIx → Request → State → State × Reply} (h : s.arbiterChoice = some (l, p, r))
    (hi : exec i s = s.serve wanted fun p l r t => t.engine p r (bad l r t) (act p r)) (hw : wanted r = true)
    (hbad : bad l r (s.handOver l p) = (s.handOver l p).badRequest l r) :
    ∃ a, exec i s = .next ((s.handOver l p).engine p r ((s.handOver l p).badRequest l r) a) :=
  ⟨act p r, by rw [hi, State.serve_taken h hw, hbad]⟩

/-- The same for a request other than Admit, whose body alone is checked. -/
theorem State.serve_engine_body {i : Instr} {wanted : Request → Bool} {act : PortIx → Request → State → State × Reply}
    (h : s.arbiterChoice = some (l, p, r)) (hi : exec i s = s.serve wanted fun p _ r t => t.engine p r r.malformed (act p r))
    (hw : wanted r = true) (hne : r.kind ≠ .admission) :
    ∃ a, exec i s = .next ((s.handOver l p).engine p r ((s.handOver l p).badRequest l r) a) :=
  State.serve_engine (bad := fun _ r _ => r.malformed) h hi hw (by simp [State.badRequest, hne])

/-- The command of any request but Withdraw is taken by the engine. -/
theorem State.exec_commandOf (h : s.arbiterChoice = some (l, p, r)) (hk : r.kind ≠ .withdraw) :
    ∃ a, exec (commandOf r) s = .next ((s.handOver l p).engine p r ((s.handOver l p).badRequest l r) a) := by
  unfold commandOf
  cases hkind : r.kind with
  | withdraw => exact absurd hkind hk
  | admission =>
    exact State.serve_engine (bad := fun l r t => t.badAdmit l r) h rfl (decide_eq_true hkind)
      (by simp [State.badAdmit, State.badRequest, hkind])
  | amend =>
    by_cases h2 : r.operation = 2
    · rw [if_pos h2]
      exact State.serve_engine_body h rfl (Request.isAmend_of_operation hkind h2) (by simp [hkind])
    by_cases h3 : r.operation = 3
    · rw [if_neg h2, if_pos h3]
      exact State.serve_engine_body h rfl (Request.isAmend_of_operation hkind h3) (by simp [hkind])
    by_cases h4 : r.operation = 4
    · rw [if_neg h2, if_neg h3, if_pos h4]
      exact State.serve_engine_body h rfl (Request.isAmend_of_operation hkind h4) (by simp [hkind])
    · rw [if_neg h2, if_neg h3, if_neg h4]
      have hother : r.isAmend 1 = true := by
        simp only [Request.isAmend, hkind, decide_true, Bool.true_and, Bool.or_eq_true, decide_eq_true_eq]
        omega
      exact State.serve_engine_body h rfl hother (by simp [hkind])
  | null => exact State.serve_engine_body h rfl (decide_eq_true hkind) (by simp [hkind])
  | confirm => exact State.serve_engine_body h rfl (decide_eq_true hkind) (by simp [hkind])
  | release => exact State.serve_engine_body h rfl (decide_eq_true hkind) (by simp [hkind])
  | lookup => exact State.serve_engine_body h rfl (decide_eq_true hkind) (by simp [hkind])
  | query => exact State.serve_engine_body h rfl (decide_eq_true hkind) (by simp [hkind])
  | resize => exact State.serve_engine_body h rfl (decide_eq_true hkind) (by simp [hkind])
  | move => exact State.serve_engine_body h rfl (decide_eq_true hkind) (by simp [hkind])
  | fetch => exact State.serve_engine_body h rfl (decide_eq_true hkind) (by simp [hkind])
  | cellStatus => exact State.serve_engine_body h rfl (decide_eq_true hkind) (by simp [hkind])

/-- The handle of a request is out of range when its index is above 16,383. -/
theorem Request.badHandle_of_index (h : 16383 < (r.halfAt 0).toNat) : r.badHandle = true := decide_eq_true h

/-- Settles O20: the engine looks at the table first and at the body next. -/
theorem requestsAreCheckedBeforeTheirRule : Obligations.RequestsAreCheckedBeforeTheirRule := by
  refine ⟨fun s l p r h hk hopen => ?_, fun s l p r h hopen hbad => ?_⟩
  · obtain ⟨a, hexec⟩ := State.exec_commandOf h hk
    rw [hexec, State.engine, if_neg (by simp [hopen])]
  · have hk : r.kind ≠ .withdraw := by
      rintro hw
      simp [hw] at hbad
    have hcheck : (s.handOver l p).badRequest l r = true := by
      unfold State.badRequest
      rcases hbad with ⟨hk | hk, hb⟩ | ⟨hk, hb⟩ | ⟨hk, hl, he⟩ | ⟨hk, hb⟩ | ⟨hk, hb⟩ | ⟨hk, hb⟩ | ⟨hk, hb⟩ | ⟨hk, hb⟩ | ⟨hk, hb⟩
      · rcases hb with hb | hb <;> simp [Request.malformed, hk, Request.badKey, hb]
      · rcases hb with hb | hb <;> simp [Request.malformed, hk, Request.badKey, hb]
      · rcases hb with hb | hb
        · simp [Request.malformed, hk, hb]
        · simp [Request.malformed, hk, show 4095 < r.admitDemand from hb]
      · simp [State.urgentMisuse, hk, hl, he]
      · have hb := Request.badHandle_of_index hb
        rcases hk with hk | hk | hk | hk | hk | hk <;> simp [Request.malformed, hk, hb]
      · rcases hb with hb | hb <;> simp [Request.malformed, hk, Request.operation, hb]
      · simp [Request.malformed, hk, show 4095 < r.resizeDemand from hb]
      · simp [Request.malformed, hk, hb]
      · rcases hb with hb | hb <;> simp [Request.malformed, hk, Request.count, hb]
      · simp [Request.malformed, hk, hb]
    obtain ⟨a, hexec⟩ := State.exec_commandOf h hk
    rw [hexec, hcheck, State.engine, if_pos (by simpa using hopen)]
    rfl

/-! ### Handles -/

/-- A request whose handle is refused is answered so, whatever its rule (R6). -/
theorem State.serve_unresolved {kind : RequestKind} {wanted : Request → Bool}
    {act : Request → State → Session → Stage → State × Reply} {a : Reply} (hs : s.serves kind l p r) (hw : wanted r = true)
    (ha : ∀ act, (s.handOver l p).withRecord p r act = (s.handOver l p, a)) :
    s.serve wanted (fun p _ r t => t.engine p r r.malformed fun u => u.withRecord p r (act r u))
      = .next ((s.handOver l p).answer p r a) := by
  rw [State.serve_served (act := fun p r u => u.withRecord p r (act r u)) hs hw, ha]

/-- A request on a record, whose handle is refused with a status, is answered with the status alone; a Resize's answer carries
CLAMPED when its demand field is 0 (R6, R103). -/
theorem State.exec_unresolved (hs : s.serves r.kind l p r)
    (hk : r.kind = .confirm ∨ r.kind = .release ∨ r.kind = .query ∨ r.kind = .amend ∨ r.kind = .resize ∨ r.kind = .move)
    (status : Status) (ha : ∀ act, (s.handOver l p).withRecord p r act = (s.handOver l p, bare status)) :
    exec (commandOf r) s = .next ((s.handOver l p).answer p r
      (Reply.mk status false false (decide (r.kind = .resize ∧ (r.halfAt 3).toNat = 0)) .empty)) := by
  have clear (hne : r.kind ≠ .resize) : bare status
      = Reply.mk status false false (decide (r.kind = .resize ∧ (r.halfAt 3).toNat = 0)) .empty := by
    simp [hne, bare, reply]
  rcases hk with hk | hk | hk | hk | hk | hk
  · rw [← clear (by simp [hk]), show commandOf r = .confirmRequest by simp [commandOf, hk]]
    exact State.serve_unresolved hs (by simp [hk]) ha
  · rw [← clear (by simp [hk]), show commandOf r = .releaseRequest by simp [commandOf, hk]]
    exact State.serve_unresolved hs (by simp [hk]) ha
  · rw [← clear (by simp [hk]), show commandOf r = .queryRequest by simp [commandOf, hk]]
    exact State.serve_unresolved hs (by simp [hk]) ha
  · rw [← clear (by simp [hk])]
    rcases Request.operation_cases hk hs.2.2.2 with hop | hop | hop | hop
    · rw [show commandOf r = .amendSet by simp [commandOf, hk, hop]]
      exact State.serve_unresolved hs (Request.isAmend_of_operation hk hop) ha
    · rw [show commandOf r = .amendClear by simp [commandOf, hk, hop]]
      exact State.serve_unresolved hs (Request.isAmend_of_operation hk hop) ha
    · rw [show commandOf r = .amendTest by simp [commandOf, hk, hop]]
      exact State.serve_unresolved hs (Request.isAmend_of_operation hk hop) ha
    · rw [show commandOf r = .amendExchange by simp [commandOf, hk, hop]]
      exact State.serve_unresolved hs (Request.isAmend_of_operation hk hop) ha
  · rw [show commandOf r = .resizeRequest by simp [commandOf, hk]]
    refine (State.serve_served (wanted := fun r => decide (r.kind = .resize)) (act := fun p r u =>
      ((u.withRecord p r (u.resizeRecord r)).1,
        (u.withRecord p r (u.resizeRecord r)).2.clampedWhen (decide (r.resizeDemand = 0)))) hs (by simp [hk])).trans ?_
    rw [ha]
    simp only [hk, true_and]
    rfl
  · rw [← clear (by simp [hk]), show commandOf r = .moveRequest by simp [commandOf, hk]]
    exact State.serve_unresolved hs (by simp [hk]) ha

/-- A handle that names no live record of its generation is refused as STALE (R6). -/
theorem State.withRecord_stale (h : ∀ ses st, ¬ s.named r.handle ses st) (act : Session → Stage → State × Reply) :
    s.withRecord p r act = (s, bare .stale) := by
  unfold State.withRecord
  cases hl : s.liveAt r.handle.index with
  | none => rfl
  | some x =>
    obtain ⟨ses, st⟩ := x
    refine if_neg fun ⟨hg, heq⟩ => h ses st ⟨hl, ?_, hg⟩
    unfold State.handleOf
    rw [heq]

/-- A named record of a cell that another port owns is refused as NOT_OWNER (R6). -/
theorem State.withRecord_notOwner (h : s.named r.handle ses st) (ho : (s.cell ses.key.cell).owner ≠ p)
    (act : Session → Stage → State × Reply) : s.withRecord p r act = (s, bare .notOwner) := by
  obtain ⟨hl, hh, hg⟩ := h
  unfold State.withRecord
  rw [hl]
  exact (if_pos ⟨hg, congrArg Handle.generation hh⟩).trans (if_neg ho)

theorem State.handOver_named {h : Handle} : (s.handOver l p).named h ses st ↔ s.named h ses st := by
  simp [State.named]

/-- Resize finds a record that is neither SETUP nor ACTIVE in the wrong state (R103). -/
theorem State.resizeRecord_wrongState (h : st.isAdmitted = false) : s.resizeRecord r ses st = s.wrongState r := by
  cases st with
  | queued _ _ _ => rfl
  | held _ _ _ _ => rfl
  | ceding _ _ _ => rfl
  | setup _ _ => cases h
  | active _ => cases h

/-- Move finds a record that is neither SETUP nor ACTIVE in the wrong state (R107). -/
theorem State.moveRecord_wrongState (h : st.isAdmitted = false) : s.moveRecord r ses st = s.wrongState r := by
  cases st with
  | queued _ _ _ => rfl
  | held _ _ _ _ => rfl
  | ceding _ _ _ => rfl
  | setup _ _ => cases h
  | active _ => cases h

theorem State.handOver_wrongState : (s.handOver l p).wrongState r
    = (s.handOver l p, reply .wrongState (.handleState r.handle (s.record r.handle.index).state)) := by
  simp [State.wrongState]

/-- Move of a resolved record carries out its rule there (R107). -/
theorem State.exec_move (hs : s.serves .move l p r) (hr : s.resolves p r.handle ses st) :
    exec .moveRequest s = .next (((s.handOver l p).moveRecord r ses st).1.answer p r ((s.handOver l p).moveRecord r ses st).2) :=
  State.serve_resolved (act := fun r u => u.moveRecord r) hs hr (decide_eq_true hs.2.1)

end

/-- Settles O21, by the checks of the handle and then by the state of the record. -/
theorem handlesAndStatesAreChecked : Obligations.HandlesAndStatesAreChecked := by
  refine ⟨fun s l p r hs hk => ⟨fun h => ?_, fun ses st h ho => ?_⟩, fun s l p r ses st hs hk hr hst => ?_⟩
  · exact State.exec_unresolved hs hk .stale (State.withRecord_stale fun ses st hn => h ses st (State.handOver_named.1 hn))
  · exact State.exec_unresolved hs hk .notOwner
      (State.withRecord_notOwner (State.handOver_named.2 h) (by rwa [State.handOver_cell]))
  · rcases hk with hk | hk | hk
    · rw [show commandOf r = .confirmRequest by simp [commandOf, hk], State.exec_confirm (hk ▸ hs) hr,
        State.confirmRecord_wrongState hst, State.handOver_wrongState]
      simp [hk, reply]
    · rw [show commandOf r = .resizeRequest by simp [commandOf, hk]]
      refine (State.serve_served (wanted := fun r => decide (r.kind = .resize)) (act := fun p r u =>
        ((u.withRecord p r (u.resizeRecord r)).1,
          (u.withRecord p r (u.resizeRecord r)).2.clampedWhen (decide (r.resizeDemand = 0)))) hs (by simp [hk])).trans ?_
      rw [State.withRecord_resolved (State.handOver_resolves hr), State.resizeRecord_wrongState hst, State.handOver_wrongState]
      simp only [hk, true_and]
      rfl
    · rw [show commandOf r = .moveRequest by simp [commandOf, hk], State.exec_move (hk ▸ hs) hr,
        State.moveRecord_wrongState hst, State.handOver_wrongState]
      simp [hk, reply]

/-! ### Lookup, Query, Cell Status and Null -/

/-- A served Lookup is answered from the directory (R18). -/
theorem State.exec_lookup {s : State} {l : Lane} {p : PortIx} {r : Request} (hs : s.serves .lookup l p r) :
    exec .lookupRequest s = .next ((s.handOver l p).answer p r ((s.handOver l p).lookupKey p r)) :=
  State.serve_served (act := fun p r u => (u, u.lookupKey p r)) hs (decide_eq_true hs.2.1)

/-- An exact directory has no entry for a key that no live record has (R16). -/
theorem State.directoryExact.findKey_none {s : State} {k : Key} (h : s.directoryExact)
    (hk : ∀ i ses st, s.liveAt i = some (ses, st) → ses.key ≠ k) : s.findKey k = none := by
  cases hf : s.findKey k with
  | none => rfl
  | some o =>
    obtain ⟨ses, st, hl, hkey, -⟩ := (h k o).1 hf
    exact absurd hkey (hk _ _ _ hl)

/-- Settles O24, by the directory for Lookup and by the resolved handle for Query. -/
theorem lookupAndQueryReport : Obligations.LookupAndQueryReport := by
  refine ⟨fun s l p r hs => ⟨fun ho => ?_, fun ho hd => ⟨fun i ses st hl hk => ?_, fun hk => ?_⟩⟩, fun s l p r ses st hs hr => ?_⟩
  · rw [State.exec_lookup hs, State.lookupKey, if_pos (by rwa [State.handOver_cell])]
    rfl
  · have hfind : s.findKey r.key = some (s.handleOf i) := (hd _ _).2 ⟨ses, st, hl, hk, rfl⟩
    rw [State.exec_lookup hs, State.lookupKey, if_neg (by simpa using ho), State.handOver_findKey, hfind]
    simp only [State.handOver_liveAt, State.handOver_record]
    rw [show (s.handleOf i).index = i from rfl, hl]
    rfl
  · rw [State.exec_lookup hs, State.lookupKey, if_neg (by simpa using ho), State.handOver_findKey, hd.findKey_none hk]
    rfl
  · have hserved := State.serve_resolved (wanted := fun r => decide (r.kind = .query))
      (act := fun r u _ _ => (u, reply .ok (.query r.handle.index (u.record r.handle.index)))) hs hr (decide_eq_true hs.2.1)
    rw [State.handOver_record] at hserved
    exact hserved

theorem State.handOver_liveIn (s : State) (l : Lane) (p : PortIx) (c : CellIx) : (s.handOver l p).liveIn c = s.liveIn c := by
  unfold State.liveIn State.sessionAt
  simp

/-- The live records of a cell are listed once. -/
theorem State.liveIn_nodup {s : State} (h : s.storeCanonical = true) (c : CellIx) : (s.liveIn c).Nodup := by
  unfold State.storeCanonical at h
  simp only [Bool.and_eq_true] at h
  have hsorted := (sparseSorted_iff s.records).1 h.1.1
  have hkeys : (s.records.map Prod.fst).Nodup := List.pairwise_map.2 (hsorted.imp fun hlt => Nat.ne_of_lt hlt)
  exact hkeys.filter _

/-- Settles O26, by the reports of the cell's entry and of its live records. -/
theorem cellStatusAndNullOnlyReport : Obligations.CellStatusAndNullOnlyReport := by
  refine ⟨fun s l p r k hs hcanon hk => ?_, fun s l p r hs => ?_⟩
  · have hrange : r.byteAt 0 < 16 := by
      have hbody := hs.2.2.2
      simp only [Request.malformed, hs.2.1, decide_eq_false_iff_not] at hbody
      omega
    have hcell (c : CellIx) : c = r.statusCell ↔ c.val = r.byteAt 0 := by
      rw [Fin.ext_iff, Request.statusCell, Fin.val_ofNat, Nat.mod_eq_of_lt hrange]
    refine ⟨s.liveIn r.statusCell, s.liveIn_nodup hcanon _, fun i => ?_, ?_⟩
    · simp only [State.mem_liveIn, hcell]
    · refine (State.serve_served (act := fun _ r u => (u, u.statusReply r.statusCell)) hs (decide_eq_true hs.2.1)).trans ?_
      simp only [State.statusReply, State.handOver_cell, State.handOver_liveIn, hk]
      rfl
  · exact State.serve_served (act := fun _ _ u => (u, bare .ok)) hs (decide_eq_true hs.2.1)

/-! ### The refusals of a Move -/

section
variable {s : State} {ses : Session} {target : CellIx}

theorem State.moveRefusal_notOwner (h : (s.cell target).owner ≠ (s.cell ses.key.cell).owner) :
    s.moveRefusal ses target = some (bare .notOwner) := if_pos h

theorem State.moveRefusal_state {status : Status} (ho : (s.cell target).owner = (s.cell ses.key.cell).owner)
    (h : cellRefusal (s.cell target).state ses.emergency = some status) :
    s.moveRefusal ses target = some (bare status) := by
  unfold State.moveRefusal
  simp only [h]
  exact if_neg (not_not.2 ho)

theorem State.moveRefusal_duplicate {o : Handle} (ho : (s.cell target).owner = (s.cell ses.key.cell).owner)
    (hst : cellRefusal (s.cell target).state ses.emergency = none)
    (h : s.findKey (s.movedSession ses target).key = some o) :
    s.moveRefusal ses target = some (s.duplicate o) := by
  unfold State.moveRefusal
  simp only [hst, h]
  exact if_neg (not_not.2 ho)

theorem State.moveRefusal_noRoom (ho : (s.cell target).owner = (s.cell ses.key.cell).owner)
    (hst : cellRefusal (s.cell target).state ses.emergency = none)
    (h : s.findKey (s.movedSession ses target).key = none) (hroom : (s.cell target).headroom ses.emergency < ses.demand) :
    s.moveRefusal ses target = some (bare .noRoom) := by
  unfold State.moveRefusal
  simp only [hst, h]
  exact (if_neg (not_not.2 ho)).trans (if_pos hroom)

theorem State.moveRefusal_none (ho : (s.cell target).owner = (s.cell ses.key.cell).owner)
    (hst : cellRefusal (s.cell target).state ses.emergency = none)
    (h : s.findKey (s.movedSession ses target).key = none) (hroom : ses.demand ≤ (s.cell target).headroom ses.emergency) :
    s.moveRefusal ses target = none := by
  unfold State.moveRefusal
  simp only [hst, h]
  exact (if_neg (not_not.2 ho)).trans (if_neg hroom.not_gt)

/-- An OPEN cell takes a newcomer or a Move, and a BARRED one an emergency session (R26). -/
theorem cellRefusal_none {state : CellState} {e : Bool} (h : state = .opened ∨ state = .barred ∧ e = true) :
    cellRefusal state e = none := by
  rcases h with rfl | ⟨rfl, rfl⟩ <;> rfl

/-- The hand-over of a request leaves what a Move is refused for. -/
theorem State.handOver_moveRefusal (l : Lane) (p : PortIx) :
    (s.handOver l p).moveRefusal ses target = s.moveRefusal ses target := by
  unfold State.moveRefusal State.movedSession State.duplicate
  simp only [State.handOver_cell, State.handOver_findKey, State.handOver_record]

/-- Move of a SETUP or ACTIVE record goes to its checks (R107). -/
theorem State.moveRecord_admitted {r : Request} {st : Stage} (h : st.isAdmitted = true) :
    s.moveRecord r ses st = s.moveTo r ses st := by
  cases st with
  | setup _ _ => rfl
  | active _ => rfl
  | queued _ _ _ => cases h
  | held _ _ _ _ => cases h
  | ceding _ _ _ => cases h

end

/-- Settles O28, by the checks of a Move in their order. -/
theorem movesAreRefusedInOrder : Obligations.MovesAreRefusedInOrder := by
  intro s l p r ses st k key hs hr hst hk hkey
  subst hk
  have howner : (s.cell ses.key.cell).owner = p := hr.2
  have hkey : (s.movedSession ses r.target).key = key := hkey.symm
  have refused {a : Reply} (h : s.moveRefusal ses r.target = some a) :
      exec .moveRequest s = .next ((s.handOver l p).answer p r a) := by
    rw [State.exec_move hs hr, State.moveRecord_admitted hst, State.moveTo, State.handOver_moveRefusal, h]
  refine ⟨fun ho => refused (State.moveRefusal_notOwner (howner ▸ ho)),
    fun ho hstate => refused (State.moveRefusal_state (ho.trans howner.symm) ?_),
    fun ho hstate => refused (State.moveRefusal_state (ho.trans howner.symm) ?_),
    fun ho hstate he => refused (State.moveRefusal_state (ho.trans howner.symm) ?_), fun ho hstate => ?_⟩
  · exact (congrArg (cellRefusal · _) hstate :)
  · exact (congrArg (cellRefusal · _) hstate :)
  · rw [he]
    exact (congrArg (cellRefusal · _) hstate :)
  · have ho : (s.cell r.target).owner = (s.cell ses.key.cell).owner := ho.trans howner.symm
    have duplicate {o : Handle} (hf : s.findKey key = some o) := refused
      (State.moveRefusal_duplicate ho (cellRefusal_none hstate) (hkey ▸ hf))
    refine ⟨fun o => duplicate, fun hf hroom => ?_, fun hself hd => ?_⟩
    · exact refused (State.moveRefusal_noRoom ho (cellRefusal_none hstate) (hkey ▸ hf) hroom)
    · obtain ⟨hl, hh, -⟩ := hr.1
      exact duplicate ((hd _ _).2 ⟨ses, st, hl, hself.symm, hh⟩)

end Sys2Proof.Machine
end

section
/-! Proofs of the statements about the layout of response frames and bodies (10.4, 10.6). -/

namespace Sys2Proof.Machine

/-! ### Fields of a list of bytes -/

theorem fieldAt_drop (b : List Byte) (o k n : Nat) : fieldAt b (o + k) n = fieldAt (b.drop o) k n := by
  simp [fieldAt, List.drop_drop]

theorem fieldAt_byte1 (v : Nat) (rest : List Byte) : fieldAt (byte1 v ++ rest) 0 1 = v % 256 := by
  simp [fieldAt, byte1]

theorem fieldAt_byte2 (v : Nat) (rest : List Byte) : fieldAt (byte2 v ++ rest) 0 2 = v % 65536 := by
  simp only [fieldAt, byte2, List.cons_append, List.nil_append, List.drop_zero, List.take_succ_cons, List.take_zero,
    List.foldl_cons, List.foldl_nil, BitVec.toNat_ofNat]
  omega

theorem fieldAt_byte3 (v : Nat) (rest : List Byte) : fieldAt (byte3 v ++ rest) 0 3 = v % 16777216 := by
  simp only [fieldAt, byte3, List.cons_append, List.nil_append, List.drop_zero, List.take_succ_cons, List.take_zero,
    List.foldl_cons, List.foldl_nil, BitVec.toNat_ofNat]
  omega

theorem fieldAt_byte4 (w : BitVec 32) (rest : List Byte) : fieldAt (byte4 w ++ rest) 0 4 = w.toNat := by
  have hw := w.isLt
  simp only [fieldAt, byte4, byte2, List.cons_append, List.nil_append, List.drop_zero, List.take_succ_cons, List.take_zero,
    List.foldl_cons, List.foldl_nil, BitVec.toNat_ofNat]
  omega

theorem fieldAt_last1 (v : Nat) : fieldAt (byte1 v) 0 1 = v % 256 := fieldAt_byte1 v []

theorem fieldAt_last2 (v : Nat) : fieldAt (byte2 v) 0 2 = v % 65536 := fieldAt_byte2 v []

/-! A later field of a list of bytes is a field of what follows the first block. -/

theorem fieldAt_past_byte1 (v o n : Nat) (rest : List Byte) : fieldAt (byte1 v ++ rest) (o + 1) n = fieldAt rest o n := rfl

theorem fieldAt_past_byte2 (v o n : Nat) (rest : List Byte) : fieldAt (byte2 v ++ rest) (o + 2) n = fieldAt rest o n := rfl

theorem fieldAt_past_byte3 (v o n : Nat) (rest : List Byte) : fieldAt (byte3 v ++ rest) (o + 3) n = fieldAt rest o n := rfl

theorem fieldAt_past_byte4 (w : BitVec 32) (o n : Nat) (rest : List Byte) :
    fieldAt (byte4 w ++ rest) (o + 4) n = fieldAt rest o n := rfl

/-! The codes are those of one byte. -/

theorem RecordState.code_lt (st : RecordState) : st.code < 256 := by cases st <;> decide

theorem CellState.code_lt (st : CellState) : st.code < 256 := by cases st <;> decide

theorem SessionNotice.code_lt (k : SessionNotice) : k.code < 256 := by cases k <;> decide

theorem Cause.code_lt (k : Cause) : k.code < 256 := by cases k <;> decide

theorem fin16_lt (k : Fin 16) : k.val < 256 := k.isLt.trans (by decide)

theorem bitAt_eq (b : Bool) (k : Nat) : bitAt b k = 2 ^ k * b.toNat := by cases b <;> simp [bitAt]

theorem testBit_eq_of_div {n k : Nat} {b : Bool} (h : n / 2 ^ k % 2 = b.toNat) : n.testBit k = b := by
  rw [Nat.testBit_eq_decide_div_mod_eq, h]
  cases b <;> decide

/-! ### Response frames -/

/-- The two bytes of a half word, put together again. -/
theorem append_byte2 (w : Half) : (BitVec.ofNat 8 (w.toNat / 256) ++ BitVec.ofNat 8 w.toNat : Half) = w := by
  refine BitVec.eq_of_toNat_eq ?_
  have hw := w.isLt
  rw [BitVec.toNat_append, ← Nat.shiftLeft_add_eq_or_of_lt (BitVec.isLt _), Nat.shiftLeft_eq, BitVec.toNat_ofNat,
    BitVec.toNat_ofNat]
  omega

/-- The conditions byte carries ZERO, MATCH and CLAMPED in its lower bits, whatever the unlisted bits hold (10.6). -/
theorem conditions_bits (z m c : Bool) (free : Half) (x : Byte)
    (hx : x = BitVec.ofNat 8 (withUnlisted (bitAt z 0 + bitAt m 1 + bitAt c 2) 3 free)) :
    x.getLsbD 0 = z ∧ x.getLsbD 1 = m ∧ x.getLsbD 2 = c := by
  have hz := z.toNat_le
  have hm := m.toNat_le
  have hc := c.toNat_le
  simp only [hx, withUnlisted, bitAt_eq, BitVec.getLsbD_ofNat]
  refine ⟨?_, ?_, ?_⟩ <;> exact (Bool.true_and _).trans (testBit_eq_of_div (by omega))

theorem Response.frame_laid (r : Response) (f0 f1 f2 : Half) : ∃ (conditions th tl c1 c2 : Byte),
    r.frame f0 f1 f2 = 0xA6#8 :: (r.kind.code ||| 0x80#8) :: BitVec.ofNat 8 r.status.code :: conditions :: th :: tl
        :: BitVec.ofNat 8 (bodyBytes r.body f1 f2).length :: (bodyBytes r.body f1 f2 ++ [c1, c2])
    ∧ conditions.getLsbD 0 = r.zero ∧ conditions.getLsbD 1 = r.isMatch ∧ conditions.getLsbD 2 = r.clamped
    ∧ th ++ tl = r.tag
    ∧ frameCheck ((r.kind.code ||| 0x80#8) :: BitVec.ofNat 8 r.status.code :: conditions :: th :: tl
        :: BitVec.ofNat 8 (bodyBytes r.body f1 f2).length :: bodyBytes r.body f1 f2) = c1 ++ c2 := by
  obtain ⟨hz, hm, hc⟩ := conditions_bits r.zero r.isMatch r.clamped f0 _ rfl
  exact ⟨_, _, _, _, _, rfl, hz, hm, hc, append_byte2 r.tag, (append_byte2 _).symm⟩

/-! ### Lengths of bodies -/

theorem noticeBytes_length (n : Notice) : (noticeBytes n).length = 9 := by cases n <;> rfl

theorem queryBytes_length (index : Nat) (r : Record) (f1 f2 : Half) : (queryBytes index r f1 f2).length = 68 := by
  unfold queryBytes
  cases r.life with
  | live ses st => cases r.pending <;> rfl
  | free => rfl
  | spent => rfl

theorem noticeBlock_length (ns : List Notice) : (ns.map noticeBytes).flatten.length = 9 * ns.length := by
  induction ns with
  | nil => rfl
  | cons n rest ih =>
    rw [List.map_cons, List.flatten_cons, List.length_append, ih, noticeBytes_length, List.length_cons]
    omega

/-- The notices of a Fetch body from one on stand nine bytes further for each before it. -/
theorem noticeBlock_drop (ns : List Notice) (j : Nat) :
    (ns.map noticeBytes).flatten.drop (9 * j) = ((ns.drop j).map noticeBytes).flatten := by
  induction ns generalizing j with
  | nil => simp
  | cons n rest ih =>
    cases j with
    | zero => rfl
    | succ j =>
      rw [List.map_cons, List.flatten_cons, List.drop_succ_cons, ← ih j, Nat.mul_succ, Nat.add_comm,
        ← noticeBytes_length n, List.drop_append]
      simp [noticeBytes_length]

/-! ### The fields of bodies -/

/-- A notice at the head of a list of bytes is laid out there (10.6, R151). -/
theorem noticeLaid_head (n : Notice) (rest : List Byte) : noticeLaid (noticeBytes n ++ rest) 0 n := by
  cases n with
  | session kind cause h cell tag =>
    have htag := tag.isLt
    cases kind <;>
      simp [noticeLaid, noticeBytes, handleBytes, fieldAt_byte1, fieldAt_byte2, fieldAt_past_byte1, fieldAt_past_byte2,
        SessionNotice.carriesTag, SessionNotice.code, Nat.mod_eq_of_lt cause.code_lt, Nat.mod_eq_of_lt (fin16_lt cell),
        Nat.mod_eq_of_lt htag]
  | level cell level =>
    simp [noticeLaid, noticeBytes, handleBytes, fieldAt_byte1, fieldAt_byte2, fieldAt_past_byte1, fieldAt_past_byte2,
      Nat.mod_eq_of_lt (fin16_lt cell)]

theorem noticeLaid_drop (b : List Byte) (o : Nat) (n : Notice) : noticeLaid b o n ↔ noticeLaid (b.drop o) 0 n := by
  unfold noticeLaid
  cases n with
  | session kind cause h cell tag => simp only [← fieldAt_drop, Nat.add_zero, Nat.zero_add]
  | level cell level => simp only [← fieldAt_drop, Nat.add_zero, Nat.zero_add]

/-- The notices of a Fetch body stand in their order, nine bytes each. -/
theorem fetchBody_laid (ns : List Notice) (count : Nat) (flag : Bool) (j : Nat) (n : Notice) (h : ns[j]? = some n) :
    noticeLaid (byte1 ns.length ++ byte2 count ++ byte1 (bitAt flag 0) ++ (ns.map noticeBytes).flatten) (4 + 9 * j) n := by
  obtain ⟨hj, hget⟩ := List.getElem?_eq_some_iff.1 h
  have hdrop : (byte1 ns.length ++ byte2 count ++ byte1 (bitAt flag 0) ++ (ns.map noticeBytes).flatten).drop (4 + 9 * j)
      = (ns.map noticeBytes).flatten.drop (9 * j) := by
    rw [← List.drop_drop]
    rfl
  rw [noticeLaid_drop, hdrop, noticeBlock_drop, List.drop_eq_getElem_cons hj, hget, List.map_cons, List.flatten_cons]
  exact noticeLaid_head n _

/-- Settles O18, by the bytes of the frame and of each body in turn. -/
theorem responseFramesAreLaidOut : Obligations.ResponseFramesAreLaidOut := by
  refine ⟨Response.frame_laid, fun b f1 f2 => ?_, fun body f1 f2 b hb => ?_, by decide, by decide, by decide, by decide,
    by decide⟩
  · cases b with
    | fetch notices count flag =>
      show (_ ++ (notices.map noticeBytes).flatten).length = _
      rw [List.length_append, noticeBlock_length]
      rfl
    | query index r => exact queryBytes_length index r f1 f2
    | empty | handle | handleState | lookup | amend | demand | move | cellStatus => rfl
  · subst hb
    cases body with
    | empty => trivial
    | query index r => trivial
    | handle h =>
      simp only [bodyBytes, handleBytes]
      simp [fieldAt_byte2, fieldAt_past_byte2, fieldAt_last1]
    | handleState h st =>
      simp only [bodyBytes, handleBytes]
      simp [fieldAt_byte1, fieldAt_byte2, fieldAt_past_byte1, fieldAt_past_byte2, fieldAt_last1, Nat.mod_eq_of_lt st.code_lt]
    | lookup h st cls level demand =>
      simp only [bodyBytes, handleBytes]
      simp [fieldAt_byte1, fieldAt_byte2, fieldAt_past_byte1, fieldAt_past_byte2, fieldAt_last2, Nat.mod_eq_of_lt st.code_lt,
        Nat.mod_eq_of_lt (fin16_lt cls)]
    | amend old new =>
      simp only [bodyBytes]
      simp [fieldAt_byte2, fieldAt_past_byte2, fieldAt_last2, Nat.mod_eq_of_lt old.isLt, Nat.mod_eq_of_lt new.isLt]
    | demand d =>
      exact fieldAt_last2 d
    | move h target level =>
      simp only [bodyBytes, handleBytes]
      simp [fieldAt_byte1, fieldAt_byte2, fieldAt_past_byte1, fieldAt_past_byte2, fieldAt_last1, Nat.mod_eq_of_lt (fin16_lt target)]
    | fetch notices count flag =>
      refine ⟨?_, ?_, ?_, fetchBody_laid notices count flag⟩
      · simp [bodyBytes, fieldAt_byte1]
      · simp [bodyBytes, fieldAt_byte2, fieldAt_past_byte1]
      · cases flag <;> simp [bodyBytes, fieldAt_byte1, fieldAt_past_byte1, fieldAt_past_byte2, bitAt]
    | cellStatus st k f a c r u o level depth sessions =>
      simp only [bodyBytes]
      simp [fieldAt_byte1, fieldAt_byte2, fieldAt_past_byte1, fieldAt_past_byte2, fieldAt_last2,
        Nat.mod_eq_of_lt st.code_lt]

/-! ### The Query body -/

/-- The presence bits of a Query stand below the unlisted bits (R19, 10.6). -/
theorem presence_bits (a b c d e f : Bool) (free : Half) (x : Nat)
    (hx : x = withUnlisted (bitAt true 0 + bitAt a 1 + bitAt b 2 + bitAt c 3 + bitAt d 4 + bitAt e 5 + bitAt f 6) 7 free % 65536) :
    x.testBit 0 = true ∧ x.testBit 1 = a ∧ x.testBit 2 = b ∧ x.testBit 3 = c ∧ x.testBit 4 = d ∧ x.testBit 5 = e
      ∧ x.testBit 6 = f := by
  have ha := a.toNat_le
  have hb := b.toNat_le
  have hc := c.toNat_le
  have hd := d.toNat_le
  have he := e.toNat_le
  have hf := f.toNat_le
  have ht : true.toNat = 1 := rfl
  simp only [withUnlisted, bitAt_eq] at hx
  subst hx
  refine ⟨?_, ?_, ?_, ?_, ?_, ?_, ?_⟩ <;> exact testBit_eq_of_div (by omega)

/-- The flags of a Query stand below the unlisted bits (10.6; log entry 17). -/
theorem flags_bits (a b c : Bool) (free : Half) (x : Nat)
    (hx : x = withUnlisted (bitAt a 0 + bitAt b 1 + bitAt c 2) 3 free % 256) :
    x.testBit 0 = a ∧ x.testBit 1 = b ∧ x.testBit 2 = c := by
  have ha := a.toNat_le
  have hb := b.toNat_le
  have hc := c.toNat_le
  simp only [withUnlisted, bitAt_eq] at hx
  subst hx
  refine ⟨?_, ?_, ?_⟩ <;> exact testBit_eq_of_div (by omega)

theorem victimBytes_eq (l : List Handle) : victimBytes l = handleBytes (l.getD 0 (Handle.mk 0 0))
    ++ (handleBytes (l.getD 1 (Handle.mk 0 0)) ++ (handleBytes (l.getD 2 (Handle.mk 0 0)) ++ handleBytes (l.getD 3 (Handle.mk 0 0)))) :=
  rfl

/-- A handle a stage lists, or the empty slot beyond its count, is in the range of its bytes. -/
theorem victim_inRange {l : List Handle} (h : ∀ x, x ∈ l → x.index ≤ 16383 ∧ x.generation ≤ 255) (k : Nat) :
    (l.getD k (Handle.mk 0 0)).index < 65536 ∧ (l.getD k (Handle.mk 0 0)).generation < 256 := by
  rcases Nat.lt_or_ge k l.length with hk | hk
  · rw [List.getD_eq_getElem _ _ hk]
    obtain ⟨h1, h2⟩ := h _ (List.getElem_mem hk)
    omega
  · rw [List.getD_eq_default _ _ hk]
    decide

/-- A handle the stage names, or the empty one, is in the range of its bytes. -/
theorem beneficiary_inRange {o : Option Handle} (h : ∀ x, o = some x → x.index ≤ 16383 ∧ x.generation ≤ 255) :
    (o.getD (Handle.mk 0 0)).index < 65536 ∧ (o.getD (Handle.mk 0 0)).generation < 256 := by
  cases o with
  | none => decide
  | some x =>
    obtain ⟨h1, h2⟩ := h x rfl
    exact ⟨Nat.lt_of_le_of_lt h1 (by decide), Nat.lt_of_le_of_lt h2 (by decide)⟩

/-- The HELD fields of a stage, or the empty ones, are in the range of their bytes. -/
theorem held_inRange {o : Option (List Handle × Nat × Nat × Nat)}
    (h : ∀ v n e c, o = some (v, n, e, c) → v.length ≤ 4 ∧ n ≤ 69630 ∧ e ≤ 65535 ∧ c ≤ 69630
      ∧ ∀ x, x ∈ v → x.index ≤ 16383 ∧ x.generation ≤ 255) :
    (o.getD ([], 0, 0, 0)).1.length < 256 ∧ (o.getD ([], 0, 0, 0)).2.1 < 16777216 ∧ (o.getD ([], 0, 0, 0)).2.2.1 < 65536
      ∧ (o.getD ([], 0, 0, 0)).2.2.2 < 16777216
      ∧ ∀ x, x ∈ (o.getD ([], 0, 0, 0)).1 → x.index ≤ 16383 ∧ x.generation ≤ 255 := by
  cases o with
  | none => simp
  | some x =>
    obtain ⟨v, n, e, c⟩ := x
    obtain ⟨h1, h2, h3, h4, h5⟩ := h v n e c rfl
    exact ⟨Nat.lt_of_le_of_lt h1 (by decide), Nat.lt_of_le_of_lt h2 (by decide), Nat.lt_of_le_of_lt h3 (by decide),
      Nat.lt_of_le_of_lt h4 (by decide), h5⟩

theorem deadlineCode_lt (st : Stage) : (st.deadline?.getD (0, 0)).2 < 256 := by
  cases st with
  | setup _ d => cases d <;> simp [Stage.deadline?]
  | queued | held | active | ceding => simp [Stage.deadline?]

/-- Settles O25, by reading each field off the bytes that stand before it. -/
theorem queryBodyLaysTheFieldsOut : Obligations.QueryBodyLaysTheFieldsOut := by
  intro i g ses st pending f1 f2 b hi hg hlevel hgrace hguard hdemand hben hheld hb
  have hstate := (Record.mk g (.live ses st) pending).state.code_lt
  obtain ⟨hbi, hbg⟩ := beneficiary_inRange hben
  obtain ⟨hcount, hneed, hreserved, hcollected, hvictims⟩ := held_inRange hheld
  have hvictim := victim_inRange hvictims
  have hdeadline := deadlineCode_lt st
  have hindex : i % 65536 = i := Nat.mod_eq_of_lt (by omega)
  have hgen : g % 256 = g := Nat.mod_eq_of_lt (by omega)
  have hlevel : ses.level % 256 = ses.level := Nat.mod_eq_of_lt (by omega)
  have hgrace : ses.grace % 65536 = ses.grace := Nat.mod_eq_of_lt (by omega)
  have hguard : ses.setupGuard % 65536 = ses.setupGuard := Nat.mod_eq_of_lt (by omega)
  have hdemand : ses.demand % 65536 = ses.demand := Nat.mod_eq_of_lt (by omega)
  have hbody : b = byte2 i ++ byte1 g ++ byte1 (Record.mk g (.live ses st) pending).state.code
      ++ byte2 (withUnlisted (presenceBits st pending) 7 f1) ++ sessionBytes ses f2 ++ stageBytes st ++ pendingBytes pending := hb
  generalize (Record.mk g (.live ses st) pending).state.code = code at *
  subst hbody
  simp only [sessionBytes, stageBytes, keyBytes, handleBytes, victimBytes_eq, List.append_assoc, fieldAt_byte1, fieldAt_byte2,
    fieldAt_byte3, fieldAt_byte4, fieldAt_past_byte1, fieldAt_past_byte2, fieldAt_past_byte3, fieldAt_past_byte4, hindex, hgen,
    Nat.mod_eq_of_lt hstate, Nat.mod_eq_of_lt (fin16_lt _), hlevel, hgrace, hguard, hdemand, Nat.mod_eq_of_lt ses.tags.isLt,
    Nat.mod_eq_of_lt ses.requestTag.isLt, Nat.mod_eq_of_lt hbi, Nat.mod_eq_of_lt hbg, Nat.mod_eq_of_lt hcount,
    Nat.mod_eq_of_lt hneed, Nat.mod_eq_of_lt hreserved, Nat.mod_eq_of_lt hcollected, Nat.mod_eq_of_lt hdeadline, true_and]
  refine ⟨presence_bits _ _ _ _ _ _ f1 _ rfl, flags_bits _ _ _ f2 _ rfl, ?_, ?_⟩
  · intro k hk
    obtain ⟨hvi, hvg⟩ := hvictim k
    rcases (by omega : k = 0 ∨ k = 1 ∨ k = 2 ∨ k = 3) with rfl | rfl | rfl | rfl <;>
      simp only [Nat.reduceMul, Nat.reduceAdd, fieldAt_byte1, fieldAt_byte2, fieldAt_past_byte1, fieldAt_past_byte2,
        fieldAt_past_byte4, Nat.mod_eq_of_lt hvi, Nat.mod_eq_of_lt hvg, and_self]
  · cases pending with
    | none => exact ⟨rfl, rfl⟩
    | some n => exact ⟨(fieldAt_byte1 _ _).trans (Nat.mod_eq_of_lt n.kind.code_lt),
        (fieldAt_last1 _).trans (Nat.mod_eq_of_lt n.cause.code_lt)⟩

end Sys2Proof.Machine
end

section
/-! Proofs of the statements about retirement paths: Release, what a record gives up, and the victim exit (3.7, 3.8, 5.3). -/

namespace Sys2Proof.Machine

/-! ### Changes at one cell -/

/-- A change that raises no notice and leaves every cell but one, which has this entry after it. -/
structure CellChange (s x : State) (c : CellIx) (k : Cell) : Prop where
  still : Still s x
  unnoticed : Unnoticed s x
  others : ∀ d, d ≠ c → x.cell d = s.cell d
  entry : x.cell c = k

section
variable {s x : State} {c : CellIx} {k : Cell}

theorem CellChange.refl (s : State) (c : CellIx) : CellChange s s c (s.cell c) :=
  ⟨.refl s, .refl s, fun _ _ => rfl, rfl⟩

theorem CellChange.trans {y : State} {k' : Cell} (h1 : CellChange s x c k) (h2 : CellChange x y c k') : CellChange s y c k' :=
  ⟨h1.still.trans h2.still, h1.unnoticed.trans h2.unnoticed, fun d hd => (h2.others d hd).trans (h1.others d hd), h2.entry⟩

/-- A change that touches no cell keeps the entry. -/
theorem CellChange.elsewhere {y : State} (h : CellChange s x c k) (hst : Still x y) (hu : Unnoticed x y)
    (hc : ∀ d, y.cell d = x.cell d) : CellChange s y c k :=
  ⟨h.still.trans hst, h.unnoticed.trans hu, fun d hd => (hc d).trans (h.others d hd), (hc c).trans h.entry⟩

theorem CellChange.modCell (h : CellChange s x c k) (f : Cell → Cell)
    (hf : ∀ e, (f e).settings = e.settings ∧ (f e).pendingLevel = e.pendingLevel ∧ (f e).owner = e.owner) :
    CellChange s (x.modCell c f) c (f k) :=
  ⟨h.still.trans (still_modCell x c f fun e => (hf e).1), h.unnoticed.trans (.modCell x c f fun e => (hf e).2),
    fun d hd => (x.cell_modCell_ne c d f hd).trans (h.others d hd), by rw [State.cell_modCell_self, h.entry]⟩

theorem CellChange.setLive (h : CellChange s x c k) (i : Nat) (ses : Session) (st : Stage) :
    CellChange s (x.setLive i ses st) c k :=
  h.elsewhere (still_setLive x i ses st) (.setLive x i ses st) fun _ => rfl

theorem CellChange.unbindAll (h : CellChange s x c k) (hs : List Handle) : CellChange s (x.unbindAll hs) c k :=
  h.elsewhere (still_unbindAll hs x) (.unbindAll x hs) fun d => State.unbindAll_cell hs x d

theorem CellChange.port (h : CellChange s x c k) (o : PortIx) : x.port o = s.port o := by
  unfold State.port
  rw [h.unnoticed.ports]

theorem CellChange.isPending (h : CellChange s x c k) (e : BacklogEntry) : x.isPending e ↔ s.isPending e :=
  State.isPending_congr h.unnoticed.records (fun d => (h.unnoticed.cells d).1) e

/-- A change with its recompute (R128, R136). -/
theorem CellChange.recounted (h : CellChange s x c k) (hl : k.level = (s.cell c).level) : Recounted s (x.recompute c) c k :=
  State.recounted_of_change h.still h.port h.isPending h.others h.entry hl

/-- A change with a notice about a record of the cell and the recompute after it: the notice goes ahead of the LEVEL notice
(R128, R136, R152). -/
theorem CellChange.noticed (h : CellChange s x c k) (hl : k.level = (s.cell c).level) {i : Nat} {ses : Session} {st : Stage}
    (hlive : x.liveAt i = some (ses, st)) (hc : ses.key.cell = c) (hgen : (x.record i).generation = (s.record i).generation)
    (kind : SessionNotice) (cause : Cause) {w : State} (hw : w = (x.raiseSession i kind cause).recompute c) :
    w.record i = Record.mk (s.record i).generation (.live ses st)
        (s.pendingAfter (s.cell c).owner 0 i (s.noticeOf i ses kind cause))
    ∧ RecordsKept x w [i] ∧ StoreListsKept x w ∧ CellIs w c k.recomputed ∧ CellsKept s w [c]
    ∧ PortsKept s w [(s.cell c).owner] ∧ Still s w
    ∧ Delivers s w (s.cell c).owner (s.ringNotice i ses kind cause :: levelNotices s w c) := by
  obtain ⟨y, hy⟩ : ∃ y, y = x.raiseSession i kind cause := ⟨_, rfl⟩
  rw [← hy] at hw
  have hcell (d : CellIx) : y.cell d = x.cell d := by rw [hy, State.raiseSession_cell]
  have howner : (x.cell ses.key.cell).owner = (s.cell c).owner := by rw [hc, (h.unnoticed.cells c).2]
  have howner' : (y.cell c).owner = (s.cell c).owner := by rw [hcell, (h.unnoticed.cells c).2]
  have hring : x.ringNotice i ses kind cause = s.ringNotice i ses kind cause := by
    unfold State.ringNotice
    rw [State.handleOf_congr hgen]
  have hnotice : x.noticeOf i ses kind cause = s.noticeOf i ses kind cause := by
    unfold State.noticeOf
    rw [hgen]
  have hafter (n : PendingNotice) : x.pendingAfter (s.cell c).owner 0 i n = s.pendingAfter (s.cell c).owner 0 i n := by
    unfold State.pendingAfter
    rw [h.port, h.unnoticed.records]
  have hself := x.raiseSession_record_self i kind cause ses st hlive
  have hraised : Delivers s y (s.cell c).owner [s.ringNotice i ses kind cause] := by
    have hx := x.raiseSession_delivers i kind cause ses st hlive _ howner.symm
    rw [hring, ← hy] at hx
    exact hx.congr (h.port _).symm rfl (fun e => (h.isPending e).symm) fun _ => Iff.rfl
  obtain ⟨hentry, hcells, hdelivers, hports, hstill⟩ := y.recompute_recounted c
  rw [← hw, howner'] at hdelivers hports
  rw [← hw] at hentry hcells hstill
  have hlevels : levelNotices y w c = levelNotices s w c := by
    unfold levelNotices
    rw [hcell, h.entry, hl]
  refine ⟨?_, fun j hj => ?_, ⟨?_, ?_⟩, ?_, fun d hd => ?_, fun o ho => ?_, ?_, ?_⟩
  · rw [hw, State.recompute_record, hy, hself, howner, hnotice, hafter, ← hgen, ← State.liveAt_eq_some.1 hlive]
  · rw [hw, State.recompute_record, hy, (x.raiseSession_record i j kind cause).2.2 (by simpa using hj)]
  · rw [hw, State.recompute_freeList, hy, State.raiseSession_freeList]
  · rw [hw, State.recompute_directory, hy, State.raiseSession_directory]
  · rw [hcell, h.entry] at hentry
    exact hentry
  · rw [hcells d hd, hcell, h.others d (by simpa using hd)]
  · rw [hports o ho, hy, x.raiseSession_port_ne i kind cause ses st hlive o (by rw [howner]; simpa using ho), h.port]
  · exact (h.still.trans (hy ▸ still_raiseSession x i kind cause)).trans hstill
  · rw [hlevels] at hdelivers
    exact hraised.trans hdelivers

end

/-! ### Release -/

/-- Release of a resolved record carries out its rule there (R92). -/
theorem State.exec_release {s : State} {l : Lane} {p : PortIx} {r : Request} {ses : Session} {st : Stage}
    (hs : s.serves .release l p r) (hr : s.resolves p r.handle ses st) :
    exec .releaseRequest s = .next (((s.handOver l p).releaseRecord r ses st).1.answer p r
      ((s.handOver l p).releaseRecord r ses st).2) :=
  State.serve_resolved (act := fun r u => u.releaseRecord r) hs hr (decide_eq_true hs.2.1)

/-- Settles O30: the record retires from the state after its change, and the pass follows by the state it was in. -/
theorem releaseGivesUpAndRetires : Obligations.ReleaseGivesUpAndRetires := by
  intro s x l p r ses st i c hs hr hi hc hx
  subst hi hc
  have hlive : (s.handOver l p).liveAt r.handle.index = some (ses, st) := by
    rw [State.handOver_liveAt]
    exact hr.1.1
  obtain ⟨st', hgone⟩ := State.giveUp_live _ _ _ _ hlive
  rw [← hx] at hgone
  refine ⟨x.retire r.handle.index, State.retire_retiredFrom _ _ _ _ hgone, ?_⟩
  rw [State.exec_release hs hr, State.releaseRecord, ← hx, State.handOver_record]
  cases st with
  | queued _ _ _ => simp only [State.startsPass, State.isHead, State.handOver_cell, reply]
  | held _ _ _ _ => simp only [State.startsPass, State.handOver_cell, reply]
  | ceding _ _ _ => simp only [State.startsPass, State.handOver_cell, reply]
  | setup _ _ => rfl
  | active _ => rfl

/-! ### What a record gives up -/

/-- A change of a cell's entry alone, with its recompute, leaves the record store. -/
theorem State.storeKept_recompute_modCell (s : State) (c : CellIx) (f : Cell → Cell) :
    StoreKept s ((s.modCell c f).recompute c) :=
  ⟨State.recompute_records .., State.recompute_freeList .., State.recompute_directory ..⟩

theorem State.subA_effect (s : State) (c : CellIx) (d : Nat) : StoreKept s ((s.subA c d).recompute c)
    ∧ Recounted s ((s.subA c d).recompute c) c { s.cell c with countA := (s.cell c).countA - d } :=
  ⟨s.storeKept_recompute_modCell c _, State.recounted_modCell s c (fun k => { k with countA := k.countA - d }) (fun _ => rfl)
    (fun _ => rfl) rfl⟩

/-- The withdrawal of a HELD record before its recompute (R64). -/
theorem State.withdrawn_change (s : State) (c : CellIx) (d : Nat) (hs : List Handle) :
    CellChange s ((s.subR c d).unbindAll hs) c { s.cell c with countR := (s.cell c).countR - d } :=
  ((CellChange.refl s c).modCell (fun k => { k with countR := k.countR - d }) (by intro k; exact ⟨rfl, rfl, rfl⟩)).unbindAll hs

/-- The withdrawal of a HELD record ends the bonds of its victims, and changes R with a recompute unless it gives up nothing
(R64, R94; log entry 19). -/
theorem State.withdrawHeld_effect (s : State) (ses : Session) (victims : List Handle) (reserved collected : Nat) {c : CellIx}
    (hc : c = ses.key.cell) {w : State} (hw : w = s.withdrawHeld ses victims reserved collected) :
    Unbound s w victims [] ∧ StoreListsKept s w
      ∧ (reserved + collected = 0 → w.cells = s.cells ∧ w.ports = s.ports ∧ Still s w)
      ∧ (reserved + collected ≠ 0 → Recounted s w c { s.cell c with countR := (s.cell c).countR - (reserved + collected) }) := by
  subst hc
  have hchange := s.withdrawn_change ses.key.cell (reserved + collected) victims
  obtain ⟨x, hx⟩ : ∃ x, x = (s.subR ses.key.cell (reserved + collected)).unbindAll victims := ⟨_, rfl⟩
  have hrec (j : Nat) : x.record j = if s.handleOf j ∈ victims then (s.record j).unbound else s.record j := by
    rw [hx, State.unbindAll_record]
    rfl
  have hlists : StoreListsKept s x := by
    rw [hx]
    exact ⟨State.unbindAll_freeList .., State.unbindAll_directory ..⟩
  rw [← hx] at hchange
  have hw : w = if reserved + collected = 0 then x else x.recompute ses.key.cell := by rw [hw, hx]; rfl
  by_cases hzero : reserved + collected = 0
  · rw [if_pos hzero] at hw
    subst hw
    refine ⟨fun j _ => hrec j, hlists, fun _ => ⟨?_, hchange.unnoticed.ports, hchange.still⟩, fun h => absurd hzero h⟩
    rw [hx, State.unbindAll_cells, State.subR, State.modCell_id s _ _ (by rw [hzero]; rfl)]
  · rw [if_neg hzero] at hw
    subst hw
    refine ⟨fun j _ => (State.recompute_record ..).trans (hrec j), ?_, fun h => absurd h hzero, fun _ => hchange.recounted rfl⟩
    exact ⟨(State.recompute_freeList ..).trans hlists.1, (State.recompute_directory ..).trans hlists.2⟩

/-- Settles O31, by the state of the record. -/
theorem givingUpFollowsTheState : Obligations.GivingUpFollowsTheState := by
  intro s i ses c hc
  subst hc
  exact ⟨fun _ _ _ => rfl, fun _ _ => s.subA_effect _ _, fun _ => s.subA_effect _ _,
    fun victims need reserved collected => s.withdrawHeld_effect ses victims reserved collected rfl rfl, fun _ _ _ => rfl⟩

/-! ### The victim exit -/

/-- The end of a bond leaves the session of a record. -/
theorem Record.unbound_live {r : Record} {ses : Session} :
    (∃ st, r.unbound.life = .live ses st) ↔ ∃ st, r.life = .live ses st := by
  unfold Record.unbound
  split
  · next h => simp [h]
  · rfl

theorem State.levelAt_eq {s t : State} {j : Nat}
    (h : ∀ ses, (∃ st, (t.record j).life = .live ses st) ↔ ∃ st, (s.record j).life = .live ses st) : t.levelAt j = s.levelAt j := by
  unfold State.levelAt
  cases ht : t.liveAt j with
  | some x =>
    obtain ⟨st, hst⟩ := (h x.1).1 ⟨x.2, State.liveAt_eq_some.1 ht⟩
    rw [State.liveAt_eq_some.2 hst]
  | none =>
    cases hs : s.liveAt j with
    | none => rfl
    | some y =>
      obtain ⟨st, hst⟩ := (h y.1).2 ⟨y.2, State.liveAt_eq_some.1 hs⟩
      rw [State.liveAt_eq_some.2 hst] at ht
      cases ht

theorem State.levelAt_unbindAll (s : State) (hs : List Handle) (j : Nat) : (s.unbindAll hs).levelAt j = s.levelAt j := by
  refine State.levelAt_eq fun ses => ?_
  rw [State.unbindAll_record]
  split
  · exact Record.unbound_live
  · rfl

/-- What a record newly in A makes of a cell's entry depends on the levels of the other records alone. -/
theorem State.counted_congr {s t : State} {i : Nat} (h : ∀ j, j ≠ i → t.levelAt j = s.levelAt j) (k : Cell) (ses : Session) :
    t.counted k i ses = s.counted k i ses := by
  have hlevels : t.levelsWith i ses.level = s.levelsWith i ses.level := by
    funext j
    unfold State.levelsWith
    split
    · rfl
    · next hj => exact h j hj
  unfold State.counted
  rw [hlevels]

/-- The change of a promotion before its notice (R60, R61): R gives up the headroom reserved and the need, the record is in SETUP
and counted in A, and the victims left lose their beneficiary. -/
def State.promoted (s : State) (c : CellIx) (i : Nat) (ses : Session) (victims : List Handle) (need reserved : Nat) : State :=
  (((s.subR c (reserved + need)).unbindAll victims).setLive i ses (setupStage s.tick ses)).countSetup c i ses

theorem State.promote_eq (s : State) (c : CellIx) (i : Nat) (ses : Session) (victims : List Handle) (need reserved : Nat) :
    s.promote c i ses victims need reserved = (s.promoted c i ses victims need reserved).raiseSession i .grant .fromHold := rfl

/-- A record newly in SETUP at a cell (R37, R48). -/
theorem CellChange.countSetup {s x : State} {c : CellIx} {k : Cell} (h : CellChange s x c k) (i : Nat) (ses : Session) (st : Stage)
    (hlevels : ∀ j, j ≠ i → x.levelAt j = s.levelAt j) :
    CellChange s ((x.setLive i ses st).countSetup c i ses) c (s.counted k i ses) := by
  have hcounted (e : Cell) : (x.setLive i ses st).counted e i ses = s.counted e i ses := by
    refine State.counted_congr (fun j hj => ?_) e ses
    rw [State.levelAt_setLive]
    exact (if_neg hj).trans (hlevels j hj)
  rw [State.countSetup_eq _ _ _ _ (State.levelAt_setLive_self ..), ← hcounted]
  exact (h.setLive i ses st).modCell ((x.setLive i ses st).counted · i ses) (by intro e; exact ⟨rfl, rfl, rfl⟩)

theorem State.countSetup_record (s : State) (c : CellIx) (i j : Nat) (ses : Session) :
    (s.countSetup c i ses).record j = s.record j := by
  unfold State.countSetup State.joinRank
  split <;> rfl

theorem State.countSetup_storeLists (s : State) (c : CellIx) (i : Nat) (ses : Session) :
    StoreListsKept s (s.countSetup c i ses) := by
  unfold State.countSetup State.joinRank
  split <;> exact ⟨rfl, rfl⟩

theorem guardAt_eq (now : Tick) (guard : Nat) : guardAt now guard = guardDeadline now guard := rfl

section
variable {s : State} {c : CellIx} {k : Cell} {i : Nat} {ses : Session} {left : List Handle} {need reserved : Nat}

/-- What a promotion does before its notice. -/
theorem CellChange.promoted {x : State} (h : CellChange s x c k) (hlevels : ∀ j, j ≠ i → x.levelAt j = s.levelAt j) :
    CellChange s (x.promoted c i ses left need reserved) c
      (s.counted { k with countR := k.countR - (reserved + need) } i ses) := by
  have hsub := (h.modCell (fun k => { k with countR := k.countR - (reserved + need) })
    (by intro e; exact ⟨rfl, rfl, rfl⟩)).unbindAll left
  exact hsub.countSetup i ses (setupStage x.tick ses) fun j hj => (State.levelAt_unbindAll _ left j).trans (hlevels j hj)

theorem State.promoted_record (x : State) (j : Nat) : (x.promoted c i ses left need reserved).record j
    = if j = i then { (if x.handleOf i ∈ left then (x.record i).unbound else x.record i) with
        life := .live ses (setupStage x.tick ses) }
      else if x.handleOf j ∈ left then (x.record j).unbound else x.record j := by
  unfold State.promoted
  rw [State.countSetup_record, State.record_setLive, State.unbindAll_record, State.unbindAll_record]
  rfl

theorem State.promoted_storeLists (x : State) : StoreListsKept x (x.promoted c i ses left need reserved) := by
  obtain ⟨hfree, hdirectory⟩ := State.countSetup_storeLists
    (((x.subR c (reserved + need)).unbindAll left).setLive i ses (setupStage x.tick ses)) c i ses
  exact ⟨hfree.trans (State.unbindAll_freeList left _), hdirectory.trans (State.unbindAll_directory left _)⟩

end

/-- The units of a victim, passed to a beneficiary that is HELD (R58, R59, R60). -/
theorem State.passUnits_held {s : State} {c : CellIx} {victim b : Handle} {h : Session} {victims left : List Handle}
    {v need reserved collected take : Nat} (hb : s.named b h (.held victims need reserved collected))
    (htake : take = min v (need - collected)) (hleft : left = victims.filter fun o => decide (o ≠ victim)) {x : State}
    (hx : x = (s.addR c take).setLive b.index h (.held left need reserved (collected + take))) :
    s.passUnits c victim v b = if collected + take = need then x.promote c b.index h left need reserved else x := by
  obtain ⟨hl, hh, -⟩ := hb
  have hgen : (s.record b.index).generation = b.generation := congrArg Handle.generation hh
  unfold State.passUnits
  simp only [hl]
  rw [if_pos hgen, ← htake, ← hleft, ← hx]

/-- Settles O32: the exit alone, the units passed, and the promotion they complete. -/
theorem victimExitPassesUnits : Obligations.VictimExitPassesUnits := by
  intro s i v ses stamp deadline c k hlive hc hk hv
  subst hc hk hv
  refine ⟨⟨_, rfl, s.storeKept_recompute_modCell _ _, State.recounted_modCell s _
    (fun k => { k with countC := k.countC - ses.demand }) (fun _ => rfl) (fun _ => rfl) rfl⟩, ?_⟩
  intro b h victims need reserved collected take left hb hcell htake hleft
  refine ⟨s.victimExit i ses (some b), rfl, ?_⟩
  obtain ⟨x, hx⟩ : ∃ x, x = ((s.subC ses.key.cell ses.demand).addR ses.key.cell take).setLive b.index h
    (.held left need reserved (collected + take)) := ⟨_, rfl⟩
  have hexit : s.victimExit i ses (some b)
      = (if collected + take = need then x.promote ses.key.cell b.index h left need reserved else x).recompute ses.key.cell :=
    congrArg (State.recompute · ses.key.cell)
      (State.passUnits_held (s := s.subC ses.key.cell ses.demand) (victim := s.handleOf i) hb htake hleft hx)
  have hchange : CellChange s x ses.key.cell { s.cell ses.key.cell with
      countC := (s.cell ses.key.cell).countC - ses.demand, countR := (s.cell ses.key.cell).countR + take } := by
    rw [hx]
    exact (((CellChange.refl s _).modCell (fun k => { k with countC := k.countC - ses.demand })
      (by intro e; exact ⟨rfl, rfl, rfl⟩)).modCell (fun k => { k with countR := k.countR + take })
      (by intro e; exact ⟨rfl, rfl, rfl⟩)).setLive _ _ _
  have hrec (j : Nat) : x.record j = if j = b.index then
      { s.record b.index with life := .live h (.held left need reserved (collected + take)) } else s.record j := by
    rw [hx, State.record_setLive]
    rfl
  have hgen (j : Nat) : (x.record j).generation = (s.record j).generation := by
    rw [hrec]
    split
    · next hj => rw [hj]
    · rfl
  have hlists : StoreListsKept s x := by rw [hx]; exact ⟨rfl, rfl⟩
  rw [hexit]
  by_cases hmet : collected + take = need
  · rw [if_pos hmet, State.promote_eq]
    have hlevels (j : Nat) (hj : j ≠ b.index) : x.levelAt j = s.levelAt j := by
      unfold State.levelAt State.liveAt
      rw [hrec, if_neg hj]
    have hpromoted := hchange.promoted (ses := h) (left := left) (need := need) (reserved := reserved) hlevels
    obtain ⟨y, hy⟩ : ∃ y, y = x.promoted ses.key.cell b.index h left need reserved := ⟨_, rfl⟩
    have hyrec (j : Nat) := x.promoted_record (c := ses.key.cell) (i := b.index) (ses := h) (left := left) (need := need)
      (reserved := reserved) j
    have hylists := x.promoted_storeLists (c := ses.key.cell) (i := b.index) (ses := h) (left := left) (need := need)
      (reserved := reserved)
    rw [← hy] at hpromoted hylists
    simp only [← hy] at hyrec
    have htick : x.tick = s.tick := hchange.still.1.tick
    have hylive : y.liveAt b.index = some (h, .setup s.tick (guardAt s.tick h.setupGuard)) := by
      rw [State.liveAt_eq_some, hyrec, if_pos rfl, guardAt_eq, ← htick]
      rfl
    have hygen : (y.record b.index).generation = (s.record b.index).generation := by
      rw [hyrec, if_pos rfl, ← hgen b.index]
      split
      · exact Record.unbound_generation _
      · rfl
    obtain ⟨hself, hkept, hstore, hentry, hcells, hports, hstill, hdelivers⟩ :=
      hpromoted.noticed rfl hylive hcell hygen .grant .fromHold rfl
    rw [← hy]
    refine ⟨⟨hstore.1.trans (hylists.1.trans hlists.1), hstore.2.trans (hylists.2.trans hlists.2)⟩,
      fun hne => absurd hmet hne, fun _ => ⟨fun j hj => ?_, ?_, hentry, hcells, hports, hstill, hdelivers⟩⟩
    · have hj : j ≠ b.index := by simpa using hj
      rw [hkept j (by simpa using hj), hyrec, if_neg hj, State.handleOf_congr (hgen j), hrec, if_neg hj]
    · rw [hself, show (s.record b.index).generation = b.generation from congrArg Handle.generation hb.2.1]
  · rw [if_neg hmet]
    refine ⟨⟨(State.recompute_freeList ..).trans hlists.1, (State.recompute_directory ..).trans hlists.2⟩,
      fun _ => ⟨fun j hj => ?_, ?_, hchange.recounted rfl⟩, fun he => absurd he hmet⟩
    · rw [State.recompute_record, hrec, if_neg (by simpa using hj)]
    · rw [State.recompute_record, hrec, if_pos rfl]

end Sys2Proof.Machine
end

section
/-! Proofs of the statements about Admit: its refusals, plain admission, the queue route and displacement (chapters 3 and 4),
with the victim walk and the places of new records. -/

namespace Sys2Proof.Machine

/-! ### The walk and the places (R51, R36, R74) -/

/-- What the victim walk takes, from any sum so far (R51). -/
theorem State.victimWalk_spec (s : State) (level shortfall : Nat) : ∀ (room v : Nat) (list taken : List Nat) (v' : Nat),
    v < shortfall → s.victimWalk level shortfall room v list = (taken, v') →
    ∃ rest, list = taken ++ rest ∧ v' = v + (taken.map s.demandAt).sum ∧ taken.length ≤ room
      ∧ (∀ i, i ∈ taken → s.levelAt i < level)
      ∧ (∀ n, n < taken.length → v + ((taken.take n).map s.demandAt).sum < shortfall)
      ∧ (shortfall ≤ v' ∨ taken.length = room ∨ rest = [] ∨ ∃ i more, rest = i :: more ∧ level ≤ s.levelAt i) := by
  intro room
  induction room with
  | zero =>
    rintro v list taken v' hv ⟨⟩
    exact ⟨list, rfl, rfl, le_rfl, by simp, by simp, .inr (.inl rfl)⟩
  | succ room ih =>
    intro v list taken v' hv h
    cases list with
    | nil =>
      cases h
      exact ⟨[], rfl, rfl, Nat.zero_le _, by simp, by simp, .inr (.inr (.inl rfl))⟩
    | cons i rest =>
      unfold State.victimWalk at h
      by_cases hlow : s.levelAt i < level
      · rw [if_pos hlow] at h
        by_cases hcovers : shortfall ≤ v + s.demandAt i
        · simp only [hcovers, if_true] at h
          cases h
          refine ⟨rest, rfl, by simp, Nat.succ_le_succ (Nat.zero_le _), by simpa using hlow, fun n hn => ?_, .inl hcovers⟩
          have hn : n = 0 := by simpa using hn
          simpa [hn] using hv
        · simp only [hcovers, if_false] at h
          obtain ⟨more, hmore⟩ : ∃ more, more = s.victimWalk level shortfall room (v + s.demandAt i) rest := ⟨_, rfl⟩
          rw [← hmore] at h
          cases h
          obtain ⟨left, hlist, hsum, hlen, hlevels, hshort, hend⟩ := ih _ rest more.1 more.2 (Nat.lt_of_not_le hcovers) hmore.symm
          refine ⟨left, by rw [hlist]; rfl, ?_, Nat.succ_le_succ hlen, ?_, fun n hn => ?_, ?_⟩
          · rw [hsum, List.map_cons, List.sum_cons, Nat.add_assoc]
          · rintro j hj
            rcases List.mem_cons.1 hj with rfl | hj
            · exact hlow
            · exact hlevels j hj
          · cases n with
            | zero => simpa using hv
            | succ n =>
              have := hshort n (Nat.lt_of_succ_lt_succ hn)
              simpa [Nat.add_assoc] using this
          · simpa using hend
      · rw [if_neg hlow] at h
        cases h
        exact ⟨i :: rest, rfl, rfl, Nat.zero_le _, by simp, by simp, .inr (.inr (.inr ⟨i, rest, rfl, Nat.le_of_not_lt hlow⟩))⟩

/-- Settles O38, by the walk from a sum of 0. -/
theorem theWalkTakesAPrefixOfTheRankList : Obligations.TheWalkTakesAPrefixOfTheRankList := by
  intro s level shortfall list taken v hpos h
  simpa using s.victimWalk_spec level shortfall 4 0 list taken v hpos h

/-- Settles O39, by the two insertions along the list. -/
theorem newRecordsTakeTheirPlaces : Obligations.NewRecordsTakeTheirPlaces := by
  refine ⟨fun e va i q => ?_, fun levelOf i level q => ?_⟩
  · induction q with
    | nil => exact ⟨[], [], rfl, rfl, by simp, by simp⟩
    | cons j rest ih =>
      unfold queueInsert
      by_cases hstop : (!e j && (e i || later (va j) (va i))) = true
      · rw [if_pos hstop]
        refine ⟨[], j :: rest, rfl, rfl, by simp, ?_⟩
        rintro _ _ ⟨⟩
        simpa using hstop
      · rw [if_neg hstop]
        obtain ⟨ahead, behind, hq, hins, hahead, hbehind⟩ := ih
        refine ⟨j :: ahead, behind, by rw [hq]; rfl, by rw [hins]; rfl, fun o ho => ?_, hbehind⟩
        rcases List.mem_cons.1 ho with rfl | ho
        · cases he : e o with
          | true => exact .inl rfl
          | false => simpa [he] using hstop
        · exact hahead o ho
  · induction q with
    | nil => exact ⟨[], [], rfl, rfl, by simp, by simp⟩
    | cons j rest ih =>
      unfold rankInsert
      by_cases hstop : level ≤ levelOf j
      · rw [if_pos hstop]
        refine ⟨[], j :: rest, rfl, rfl, by simp, ?_⟩
        rintro _ _ ⟨⟩
        exact hstop
      · rw [if_neg hstop]
        obtain ⟨ahead, behind, hq, hins, hahead, hbehind⟩ := ih
        refine ⟨j :: ahead, behind, by rw [hq]; rfl, by rw [hins]; rfl, fun o ho => ?_, hbehind⟩
        rcases List.mem_cons.1 ho with rfl | ho
        · exact Nat.lt_of_not_le hstop
        · exact hahead o ho

/-! ### Admit -/

section
variable {s : State} {l : Lane} {p : PortIx} {r : Request}

/-- An Admit in range that does not misuse the urgent lane goes on to its checks (R40, R41). -/
theorem State.exec_admit (hs : s.serves .admission l p r) (hl : l = .urgent → (s.classAt r.cls).emergency = true) :
    exec .admitRequest s = .next (((s.handOver l p).admitChecked p r).1.answer p r ((s.handOver l p).admitChecked p r).2) := by
  obtain ⟨hchoice, hkind, hopen, hbody⟩ := hs
  have hbad : (s.handOver l p).badAdmit l r = false := by
    simp only [State.badAdmit, State.urgentMisuse, State.handOver_classAt, hbody, Bool.false_or, Bool.and_eq_false_iff,
      decide_eq_false_iff_not, Bool.not_eq_false']
    exact imp_iff_not_or.1 hl
  have hserved : exec .admitRequest s = .next ((s.handOver l p).engine p r ((s.handOver l p).badAdmit l r) fun u =>
      u.admitChecked p r) := by
    show execAdmit s = _
    unfold execAdmit
    exact State.serve_taken hchoice (decide_eq_true hkind)
  rw [hserved, hbad, State.engine_open (by rwa [State.handOver_tableOpen])]

/-- A refused Admit is answered with its refusal, and nothing changes (R40). -/
theorem State.exec_admit_refused (hs : s.serves .admission l p r) (hl : l = .urgent → (s.classAt r.cls).emergency = true)
    {a : Reply} (h : (s.handOver l p).admitRefusal p r = some a) : exec .admitRequest s
      = .next ((s.handOver l p).answer p r (a.clampedWhen (decide ((r.halfAt 7).toNat = 0)))) := by
  rw [State.exec_admit hs hl, State.admitChecked, h]
  rfl

/-- An Admit that passes its checks goes on to its routing (R45, R46). -/
theorem State.exec_admit_passed (hs : s.serves .admission l p r) (hl : l = .urgent → (s.classAt r.cls).emergency = true)
    (h : s.admitPasses p r) {t : State} {a : Reply} (hroute : (s.handOver l p).routeNewcomer r (s.sessionOf r) = (t, a)) :
    exec .admitRequest s = .next (t.answer p r (a.clampedWhen (decide ((r.halfAt 7).toNat = 0)))) := by
  rw [State.exec_admit hs hl, State.admitChecked, State.admitRefusal_none h]
  simp only [State.handOver_classAt, newSession_sessionOf, hroute]
  rfl

/-! The checks of an Admit in their order (R40). -/

theorem State.admitRefusal_notOwner (h : (s.cell r.key.cell).owner ≠ p) : s.admitRefusal p r = some (bare .notOwner) := if_pos h

theorem State.admitRefusal_duplicate {o : Handle} (ho : (s.cell r.key.cell).owner = p) (h : s.findKey r.key = some o) :
    s.admitRefusal p r = some (s.duplicate o) := by
  unfold State.admitRefusal
  simp only [h]
  exact if_neg (not_not.2 ho)

theorem State.admitRefusal_state {status : Status} (ho : (s.cell r.key.cell).owner = p) (hf : s.findKey r.key = none)
    (h : cellRefusal (s.cell r.key.cell).state (s.classAt r.cls).emergency = some status) :
    s.admitRefusal p r = some (bare status) := by
  unfold State.admitRefusal
  simp only [hf, h]
  exact if_neg (not_not.2 ho)

theorem State.admitRefusal_taken (ho : (s.cell r.key.cell).owner = p) (hf : s.findKey r.key = none)
    (h : cellRefusal (s.cell r.key.cell).state (s.classAt r.cls).emergency = none) :
    s.admitRefusal p r = if (s.classAt r.cls).level = 0 then some (bare .classClosed)
      else if (s.cell r.key.cell).limit (s.classAt r.cls).emergency < clampDemand r.admitDemand then some (bare .tooLarge)
      else if (s.classAt r.cls).refuseInUse ≤ (s.cell r.key.cell).level then some (bare .congested)
      else if s.recordAvailable (s.classAt r.cls).emergency then none else some (bare .tableFull) := by
  unfold State.admitRefusal
  simp only [hf, h]
  exact if_neg (not_not.2 ho)

theorem State.handOver_admitRefusal : (s.handOver l p).admitRefusal p r = s.admitRefusal p r := by
  unfold State.admitRefusal State.duplicate State.recordAvailable
  simp only [State.handOver_cell, State.handOver_findKey, State.handOver_record, State.handOver_classAt, State.handOver_freeList]

/-- Too few records are free for the class (R9). -/
theorem State.recordAvailable_false {e : Bool} (h : s.freeList.length < if e = true then 1 else 65) :
    s.recordAvailable e = false := by
  cases e with
  | true => exact decide_eq_false (Nat.not_le.2 h)
  | false => exact decide_eq_false (Nat.not_le.2 h)

end

/-- Settles O33, by the checks of an Admit in their order. -/
theorem admitsAreRefusedInOrder : Obligations.AdmitsAreRefusedInOrder := by
  intro s l p r k cls d refused hs hl hk hcls hd href
  subst hk hcls hd href
  have refuse {a : Reply} (h : s.admitRefusal p r = some a) := State.exec_admit_refused hs hl (State.handOver_admitRefusal.trans h)
  refine ⟨fun ho => refuse (State.admitRefusal_notOwner ho), fun ho o hf => refuse (State.admitRefusal_duplicate ho hf),
    fun ho hf => ⟨fun hstate => ?_, fun hstate => ?_, fun hstate he => ?_, fun hstate => ?_⟩⟩
  · exact refuse (State.admitRefusal_state ho hf (congrArg (cellRefusal · _) hstate :))
  · exact refuse (State.admitRefusal_state ho hf (congrArg (cellRefusal · _) hstate :))
  · exact refuse (State.admitRefusal_state ho hf (congrArg₂ cellRefusal hstate he :))
  · have htaken := State.admitRefusal_taken ho hf (cellRefusal_none hstate)
    refine ⟨fun hlevel => refuse (htaken.trans (if_pos hlevel)), fun hlevel hlarge => ?_, fun hlevel hfits => ⟨fun hrefuse => ?_,
      fun hrefuse hfree => ?_⟩⟩
    · exact refuse (htaken.trans ((if_neg (by exact Nat.one_le_iff_ne_zero.1 hlevel)).trans (if_pos hlarge)))
    · exact refuse (htaken.trans ((if_neg (by exact Nat.one_le_iff_ne_zero.1 hlevel)).trans
        ((if_neg (by exact Nat.not_lt.2 hfits)).trans (if_pos hrefuse))))
    · have hnone : s.recordAvailable (s.classAt r.cls).emergency = false := State.recordAvailable_false hfree
      exact refuse (htaken.trans ((if_neg (by exact Nat.one_le_iff_ne_zero.1 hlevel)).trans
        ((if_neg (by exact Nat.not_lt.2 hfits)).trans ((if_neg (by exact Nat.not_le.2 hrefuse)).trans
          (if_neg (by rw [hnone]; exact Bool.false_ne_true))))))

end Sys2Proof.Machine
end

section
/-! Proofs of the statements about the routes of a newcomer: plain admission, preemption, the queue and displacement
(3.3 to 3.5, 4.3). -/

namespace Sys2Proof.Machine

/-! ### What the hand-over of a request leaves -/

section
variable {s w : State} {l : Lane} {p : PortIx}

theorem taken_handOver {i : Nat} {ses : Session} {st : Stage} : Taken (s.handOver l p) w i ses st ↔ Taken s w i ses st := by
  cases l <;> exact Iff.rfl

theorem recordsKept_handOver {is : List Nat} : RecordsKept (s.handOver l p) w is ↔ RecordsKept s w is := by
  cases l <;> exact Iff.rfl

theorem cellsKept_handOver {cs : List CellIx} : CellsKept (s.handOver l p) w cs ↔ CellsKept s w cs := by
  cases l <;> exact Iff.rfl

theorem reserveRaised_handOver : ReserveRaised (s.handOver l p) w ↔ ReserveRaised s w := by
  cases l <;> exact Iff.rfl

theorem levelNotices_handOver {c : CellIx} : levelNotices (s.handOver l p) w c = levelNotices s w c := by
  unfold levelNotices
  rw [State.handOver_cell]

theorem State.counted_handOver (k : Cell) (i : Nat) (ses : Session) : (s.handOver l p).counted k i ses = s.counted k i ses :=
  State.counted_congr (fun j _ => congrFun (s.handOver_levelAt l p) j) k ses

theorem State.takesVictims_handOver {c : CellIx} {ses : Session} {vs : List Nat} :
    (s.handOver l p).takesVictims c ses vs ↔ s.takesVictims c ses vs := by
  rw [State.takesVictims_iff, State.takesVictims_iff, State.handOver_fits, State.handOver_mayPreempt, State.handOver_victimsFor]

theorem State.goesDirect_handOver {c : CellIx} {ses : Session} : (s.handOver l p).goesDirect c ses ↔ s.goesDirect c ses := by
  simp only [State.goesDirect, State.handOver_outranksHead, State.handOver_fits, State.takesVictims_handOver]

end

/-! ### Plain admission -/

/-- A take is not undone by what leaves the record, the free list and the directory (R8, R16). -/
theorem Taken.kept {s x w : State} {i : Nat} {ses : Session} {st : Stage} (h : Taken s x i ses st)
    (hr : w.record i = x.record i) (hf : w.freeList = x.freeList) (hk : ∀ k, w.findKey k = x.findKey k) : Taken s w i ses st := by
  obtain ⟨hfree, hrec, hadd, hothers⟩ := h
  exact ⟨hfree.trans (by rw [hf]), hr.trans hrec, (hk _).trans hadd, fun k hne => (hk k).trans (hothers k hne)⟩

theorem ReserveRaised.kept {s x w : State} (h : ReserveRaised s x) (hf : w.freeList = x.freeList) (he : EventsKept x w) :
    ReserveRaised s w := by
  unfold ReserveRaised EventsKept at *
  rw [hf, he.1, he.2]
  exact h

/-- What a take leaves of the ports and of what is pending. -/
theorem Delivers.after_unnoticed {s x w : State} {p : PortIx} {ns : List Notice} (h : Delivers x w p ns) (hu : Unnoticed s x) :
    Delivers s w p ns :=
  h.congr (by unfold State.port; rw [hu.ports]) rfl
    (fun e => (State.isPending_congr hu.records (fun d => (hu.cells d).1) e).symm) fun _ => Iff.rfl

/-- What plain admission of a newcomer does (R48). -/
theorem State.admitPlain_effect (s : State) (ses : Session) {i : Nat} {rest : List Nat} (hf : s.freeList = i :: rest)
    {c : CellIx} (hc : c = ses.key.cell) {w : State} (hw : w = s.admitPlain ses) :
    Taken s w i ses (.setup s.tick (guardAt s.tick ses.setupGuard)) ∧ RecordsKept s w [i]
      ∧ CellIs w c (s.counted (s.cell c) i ses).recomputed ∧ CellsKept s w [c]
      ∧ Delivers s w (s.cell c).owner (levelNotices s w c) ∧ PortsKept s w [(s.cell c).owner] ∧ Quiet s w
      ∧ ReserveRaised s w := by
  subst hc
  obtain ⟨x, hx⟩ : ∃ x, x = s.takeRecord ses (setupStage s.tick ses) := ⟨_, rfl⟩
  obtain ⟨htaken, hkept, hreserve, hcells, hports, hquiet⟩ := s.takeRecord_taken ses (setupStage s.tick ses) i rest hf
  have hunnoticed := Unnoticed.takeRecord s ses (setupStage s.tick ses)
  rw [← hx] at htaken hkept hreserve hcells hports hquiet hunnoticed
  have hnext : s.nextFree = i := by rw [State.nextFree, hf]; rfl
  have hcell (d : CellIx) : x.cell d = s.cell d := by rw [State.cell, hcells]; rfl
  have hlevel : x.levelAt i = ses.level := by
    unfold State.levelAt
    rw [State.liveAt_eq_some.2 (congrArg Record.life htaken.2.1)]
  have hcounted : x.counted (s.cell ses.key.cell) i ses = s.counted (s.cell ses.key.cell) i ses :=
    State.counted_congr (fun j hj => by unfold State.levelAt State.liveAt; rw [hkept j (by simpa using hj)]) _ _
  obtain ⟨y, hy⟩ : ∃ y, y = x.countSetup ses.key.cell i ses := ⟨_, rfl⟩
  have hwy : w = y.recompute ses.key.cell := by rw [hw, hy, hx, ← hnext]; rfl
  have hchange : CellChange x y ses.key.cell (x.counted (x.cell ses.key.cell) i ses) := by
    rw [hy, State.countSetup_eq _ _ _ _ hlevel]
    exact (CellChange.refl x _).modCell (x.counted · i ses) (by intro e; exact ⟨rfl, rfl, rfl⟩)
  obtain ⟨hentry, hothers, hdelivers, hportsKept, hstill⟩ := hchange.recounted rfl
  rw [← hwy, hcell] at hentry hdelivers hportsKept
  rw [← hwy] at hothers hstill
  have hrec (j : Nat) : w.record j = x.record j := by rw [hwy, State.recompute_record, hy, State.countSetup_record]
  have hlists := State.countSetup_storeLists x ses.key.cell i ses
  have hfree : w.freeList = x.freeList := by rw [hwy, State.recompute_freeList, hy, hlists.1]
  have hfind (k : Key) : w.findKey k = x.findKey k := by
    rw [hwy, State.recompute_findKey, hy]
    unfold State.findKey
    rw [hlists.2]
  have hlevels : levelNotices x w ses.key.cell = levelNotices s w ses.key.cell := by
    unfold levelNotices
    rw [hcell]
  refine ⟨htaken.kept (hrec i) hfree hfind, fun j hj => (hrec j).trans (hkept j hj), hcounted ▸ hentry,
    fun d hd => (hothers d hd).trans (hcell d), ?_, fun o ho => ?_, hquiet.trans hstill.quiet, hreserve.kept hfree hstill.2⟩
  · rw [hlevels] at hdelivers
    exact hdelivers.after_unnoticed hunnoticed
  · rw [hportsKept o ho, State.port, hports]
    rfl

/-- A newcomer that competes and fits is admitted plainly (R45, R48). -/
theorem State.routeNewcomer_plain {s : State} {r : Request} {ses : Session} (hcompetes : s.outranksHead ses.key.cell ses)
    (hfits : s.fits ses.key.cell ses.emergency ses.demand) :
    s.routeNewcomer r ses = (s.admitPlain ses, reply .ok (.handle (s.handleOf s.nextFree))) :=
  (if_pos ((State.competes_iff s ses).2 hcompetes)).trans (if_pos hfits)

/-- Settles O34, by the effect of plain admission in the state after the hand-over. -/
theorem admitAdmitsPlainly : Obligations.AdmitAdmitsPlainly := by
  intro s h l p r ses c hs hl hh hses hc hpass hcompetes hfits
  subst hh hses hc
  obtain ⟨i, rest, hf⟩ := State.admitPasses_head hpass
  have hfree : (s.handOver l p).freeList = i :: rest := by rw [State.handOver_freeList, hf]
  have hnext : (s.handOver l p).nextFree = i := by rw [State.nextFree, hfree]; rfl
  have howner : (s.cell r.key.cell).owner = p := hpass.1
  have hroute := State.routeNewcomer_plain (r := r) (ses := s.sessionOf r) (s := s.handOver l p)
    ((State.handOver_outranksHead ..).2 hcompetes) ((State.handOver_fits ..).2 hfits)
  rw [hnext, State.handOver_handleOf] at hroute
  have heffect := (s.handOver l p).admitPlain_effect (s.sessionOf r) hfree (c := r.key.cell) rfl rfl
  rw [taken_handOver, recordsKept_handOver, cellsKept_handOver, reserveRaised_handOver, levelNotices_handOver,
    State.counted_handOver, State.handOver_cell, State.handOver_tick, howner] at heffect
  obtain ⟨htaken, hkept, hentry, hcells, hdelivers, hports, hquiet, hreserve⟩ := heffect
  exact ⟨_, i, State.exec_admit_passed hs hl hpass hroute, htaken, hkept, hentry, hcells, hdelivers, hports, hquiet, hreserve⟩

/-! ### The queue route -/

/-- A newcomer that takes no direct route takes the queue route (R45, R46, R47). -/
theorem State.routeNewcomer_queue {s : State} {r : Request} {ses : Session} (h : ¬ s.goesDirect ses.key.cell ses) :
    s.routeNewcomer r ses = s.queueRoute r ses := by
  unfold State.routeNewcomer
  by_cases hcompetes : s.competes ses = true
  · have hno : ∀ vs, ¬ s.takesVictims ses.key.cell ses vs := fun vs hv => h ⟨(State.competes_iff s ses).1 hcompetes, .inr ⟨vs, hv⟩⟩
    have hfits : ¬ ses.demand ≤ (s.cell ses.key.cell).headroom ses.emergency := fun hf =>
      h ⟨(State.competes_iff s ses).1 hcompetes, .inl hf⟩
    simp only [hcompetes, if_true, hfits, if_false]
    by_cases hmay : s.mayPreempt ses = true
    · cases hv : s.victimsFor ses.key.cell ses with
      | none => simp only [hmay, if_true]
      | some vs => exact absurd ((State.takesVictims_iff ..).2 ⟨hfits, hmay, hv⟩) (hno vs)
    · rw [if_neg hmay]
  · rw [if_neg hcompetes]

section
variable {s : State} {r : Request} {ses : Session}

theorem State.queueRoute_noRoom (h : (s.classAt ses.cls).mayQueue = false ∧ (s.classAt ses.cls).emergency = false
    ∨ r.flags.getLsbD 1 = true ∨ r.flags.getLsbD 2 = true) : s.queueRoute r ses = (s, bare .noRoom) := by
  refine if_pos ?_
  unfold ServiceClass.mayQueueInUse Request.noQueueFlag Request.handoverFlag
  rcases h with ⟨h1, h2⟩ | h | h <;> simp [*]

/-- A newcomer that may queue is refused, displaces or is enqueued by the room in the queue (R75). -/
theorem State.queueRoute_queues (h : (s.classAt ses.cls).mayQueue = true ∨ (s.classAt ses.cls).emergency = true)
    (h1 : r.flags.getLsbD 1 = false) (h2 : r.flags.getLsbD 2 = false) : s.queueRoute r ses
      = if s.queueFull ses.key.cell then
          if ses.emergency then
            match s.lastOrdinary ses.key.cell with
            | some i => (((s.displace i).enqueue ses).serviceWhen (s.isHead ses.key.cell i) ses.key.cell,
                reply .queued (.handle (s.handleOf s.nextFree)))
            | none => (s, bare .queueFull)
          else (s, bare .queueFull)
        else (s.enqueue ses, reply .queued (.handle (s.handleOf s.nextFree))) := by
  unfold State.queueRoute
  refine if_neg ?_
  unfold ServiceClass.mayQueueInUse Request.noQueueFlag Request.handoverFlag
  rw [h1, h2]
  rcases h with h | h <;> simp [h]

theorem State.queueRoute_queueFull (h : (s.classAt ses.cls).mayQueue = true ∨ (s.classAt ses.cls).emergency = true)
    (h1 : r.flags.getLsbD 1 = false) (h2 : r.flags.getLsbD 2 = false) (hfull : s.full ses.key.cell)
    (hnone : ses.emergency = false ∨ ∀ i ∈ (s.cell ses.key.cell).queue, s.emergencyAt i = true) :
    s.queueRoute r ses = (s, bare .queueFull) := by
  rw [State.queueRoute_queues h h1 h2, if_pos ((State.queueFull_iff ..).2 hfull)]
  by_cases he : ses.emergency = true
  · rw [if_pos he, State.lastOrdinary_none s _ (hnone.resolve_left (by simp [he]))]
  · exact if_neg he

theorem State.queueRoute_enqueues (h : (s.classAt ses.cls).mayQueue = true ∨ (s.classAt ses.cls).emergency = true)
    (h1 : r.flags.getLsbD 1 = false) (h2 : r.flags.getLsbD 2 = false) (hroom : ¬ s.full ses.key.cell) :
    s.queueRoute r ses = (s.enqueue ses, reply .queued (.handle (s.handleOf s.nextFree))) := by
  rw [State.queueRoute_queues h h1 h2]
  exact if_neg fun hf => hroom ((State.queueFull_iff ..).1 hf)

theorem State.queueRoute_displaces (he : (s.classAt ses.cls).emergency = true) (hses : ses.emergency = true)
    (h1 : r.flags.getLsbD 1 = false) (h2 : r.flags.getLsbD 2 = false) (hfull : s.full ses.key.cell) {j : Nat}
    (hlast : s.lastOrdinary ses.key.cell = some j) : s.queueRoute r ses
      = (((s.displace j).enqueue ses).serviceWhen (s.isHead ses.key.cell j) ses.key.cell,
          reply .queued (.handle (s.handleOf s.nextFree))) := by
  rw [State.queueRoute_queues (.inr he) h1 h2, if_pos ((State.queueFull_iff ..).2 hfull), if_pos hses, hlast]

end

/-- Settles O36, by what the queue route answers in the state after the hand-over. -/
theorem admitQueuesOrRefuses : Obligations.AdmitQueuesOrRefuses := by
  intro s h l p r ses c k z hs hl hh hses hc hk hz hpass hdirect
  subst hh hses hc hk hz
  have hindirect := hdirect
  rw [← State.goesDirect_handOver (l := l) (p := p)] at hindirect
  have routed {t : State} {a : Reply} (h : (s.handOver l p).queueRoute r (s.sessionOf r) = (t, a)) :=
    State.exec_admit_passed hs hl hpass ((State.routeNewcomer_queue hindirect).trans h)
  have hclass : (s.handOver l p).classAt (s.sessionOf r).cls = s.classAt r.cls := State.handOver_classAt ..
  refine ⟨fun hno => routed (State.queueRoute_noRoom (by rwa [hclass])), fun hmay h1 h2 => ⟨fun hfull hnone => ?_, fun hroom => ?_⟩⟩
  · refine routed (State.queueRoute_queueFull (by rwa [hclass]) h1 h2 ((State.handOver_full ..).2 hfull) ?_)
    rw [State.handOver_cell, State.handOver_emergencyAt]
    exact hnone
  · obtain ⟨i, rest, hf⟩ := State.admitPasses_head hpass
    have hfree : (s.handOver l p).freeList = i :: rest := by rw [State.handOver_freeList, hf]
    have hnext : (s.handOver l p).nextFree = i := by rw [State.nextFree, hfree]; rfl
    have hroute := State.queueRoute_enqueues (r := r) (ses := s.sessionOf r) (by rwa [hclass]) h1 h2
      (fun hfull => hroom ((State.handOver_full ..).1 hfull))
    rw [hnext, State.handOver_handleOf] at hroute
    exact ⟨_, i, State.enqueue_enqueued _ _ i rest hfree, routed hroute⟩

/-- Settles O37: the displaced record retires, and the newcomer takes the head of the free list. -/
theorem anEmergencyNewcomerDisplaces : Obligations.AnEmergencyNewcomerDisplaces := by
  intro s h x l p r ses gone st c j ahead behind hs hh hses hc he hpass hdirect h1 h2 hfull hqueue hbehind hlive hgone hx
  subst hh hses hc
  obtain ⟨i, rest, hf⟩ := State.admitPasses_head hpass
  have hclass : (s.classAt r.cls).emergency = true := he
  have hindirect := hdirect
  rw [← State.goesDirect_handOver (l := l) (p := p)] at hindirect
  have hordinary : s.emergencyAt j = false := by
    unfold State.emergencyAt State.sessionAt
    rw [hlive]
    exact hgone
  have hlast : (s.handOver l p).lastOrdinary r.key.cell = some j := by
    refine State.lastOrdinary_some _ _ ahead behind j (by rw [State.handOver_cell]; exact hqueue) ?_ ?_
    · rw [State.handOver_emergencyAt]
      exact hbehind
    · rw [State.handOver_emergencyAt]
      exact hordinary
  have hxlive : x.liveAt j = some (gone, st) := by
    rw [hx, State.raiseSession_liveAt, State.handOver_liveAt]
    exact hlive
  have hxfree : x.freeList = i :: rest := by rw [hx, State.raiseSession_freeList, State.handOver_freeList, hf]
  have hretired := State.retire_retiredFrom x j gone st hxlive
  have hdisplace : (s.handOver l p).displace j = x.retire j := by rw [hx]; rfl
  obtain ⟨rest', hyfree⟩ : ∃ rest', (x.retire j).freeList = i :: rest' := by
    rw [hretired.1.2.1, hxfree]
    split
    · exact ⟨rest, rfl⟩
    · exact ⟨rest ++ [j], rfl⟩
  have hnext : (s.handOver l p).nextFree = i := by rw [State.nextFree, State.handOver_freeList, hf]; rfl
  have hroute := State.queueRoute_displaces (s := s.handOver l p) (r := r) (ses := s.sessionOf r)
    (by rw [State.handOver_classAt]; exact hclass) he h1 h2 ((State.handOver_full ..).2 hfull) hlast
  rw [hdisplace, hnext, State.handOver_handleOf] at hroute
  refine ⟨x.retire j, (x.retire j).enqueue (s.sessionOf r), i, hretired, State.enqueue_enqueued _ _ i rest' hyfree,
    by rw [hf]; rfl, ?_⟩
  have hhead : (s.handOver l p).isHead r.key.cell j = decide ((s.cell r.key.cell).queue.head? = some j) := by
    rw [State.isHead, State.handOver_cell]
  have hexec := State.exec_admit_passed hs (fun _ => hclass) hpass ((State.routeNewcomer_queue hindirect).trans hroute)
  rw [show (s.sessionOf r).key.cell = r.key.cell from rfl, hhead] at hexec
  exact hexec

end Sys2Proof.Machine
end

section
/-! Proofs of the statements about preemption by a newcomer and about queue service passes (3.5, 4.6). -/

namespace Sys2Proof.Machine

/-! ### Victims -/

/-- A requester that does not fit has a shortfall (R44, R50). -/
theorem State.shortfall_pos {s : State} {c : CellIx} {e : Bool} {d : Nat} (h : ¬ s.fits c e d) :
    1 ≤ (s.cell c).use + d - (s.cell c).limitOf e := by
  unfold State.fits at h
  omega

/-- The victims of a decision are distinct SETUP or ACTIVE records of the cell, where its rank list is exact (R36, R51). -/
theorem State.takesVictims.spec {s : State} {c : CellIx} {ses : Session} {vs : List Nat} (h : s.takesVictims c ses vs)
    (hc : s.cellExact c) :
    vs.Nodup ∧ ∀ j ∈ vs, ∃ v st, s.liveAt j = some (v, st) ∧ v.key.cell = c ∧ st.isAdmitted = true := by
  obtain ⟨hfits, -, v, hwalk, -⟩ := h
  obtain ⟨-, -, -, -, -, -, -, hnodup, hmem, -⟩ := hc
  obtain ⟨rest, hlist, -⟩ := theWalkTakesAPrefixOfTheRankList s _ _ _ _ _ (State.shortfall_pos hfits) hwalk
  rw [hlist] at hnodup hmem
  refine ⟨(List.nodup_append.1 hnodup).1, fun j hj => ?_⟩
  obtain ⟨u, st, hl, hcell, hadmitted, -⟩ := (hmem j).1 (List.mem_append_left _ hj)
  exact ⟨u, st, hl, hcell, hadmitted⟩

section
variable {s s' : State}

theorem State.noticeOf_congr {j : Nat} (h : s'.record j = s.record j) (v : Session) (kind : SessionNotice) (cause : Cause) :
    s'.noticeOf j v kind cause = s.noticeOf j v kind cause := by
  unfold State.noticeOf
  rw [h]

theorem State.pendingAfter_congr {j : Nat} {p : PortIx} (h : s'.record j = s.record j) (hp : s'.port p = s.port p)
    (ahead : Nat) (n : PendingNotice) : s'.pendingAfter p ahead j n = s.pendingAfter p ahead j n := by
  unfold State.pendingAfter
  rw [h, hp]

end

/-- A cell's entry with the demands of victims passed from A to C, and headroom reserved in R (R52, R53). -/
def Cell.preempted (k : Cell) (v m : Nat) (victims : List Nat) : Cell :=
  { k with
    countA := k.countA - v
    countC := k.countC + v
    countR := k.countR + m
    rankList := k.rankList.filter fun i => decide (i ∉ victims) }

/-- What a preemption decision leaves of its victims, its cell and its port (R52, R53): the victims are taken after a change at
the cell, then the requester's record is written, and the headroom is reserved with a recompute. -/
theorem State.takeVictims_preempted {s s' z w : State} {c : CellIx} {k : Cell} {ses : Session} {rq : Handle} {vs : List Nat}
    (hchange : CellChange s s' c k)
    (hk : { k with queue := (s.cell c).queue, enqueueOrder := (s.cell c).enqueueOrder } = s.cell c)
    (hrec : ∀ j, s'.record j = s.record j) (hnodup : vs.Nodup)
    (hlive : ∀ j ∈ vs, ∃ v st, s.liveAt j = some (v, st) ∧ v.key.cell = c)
    (hz : Unnoticed (s'.takeVictims rq c vs) z) (hcells : ∀ d, z.cell d = (s'.takeVictims rq c vs).cell d)
    (hvictims : ∀ j ∈ vs, z.record j = (s'.takeVictims rq c vs).record j)
    (hw : w = (z.addR c ((s.cell c).limitOf ses.emergency - (s.cell c).use)).recompute c) :
    Preempted s w c ses rq vs k ∧ CellsKept s w [c] ∧ PortsKept s w [(s.cell c).owner] ∧ Still z w := by
  have hliveAt (j : Nat) : s'.liveAt j = s.liveAt j := by
    unfold State.liveAt
    rw [hrec]
  have howner : (s'.cell c).owner = (s.cell c).owner := (hchange.unnoticed.cells c).2
  have heffect := State.takeVictims_effect rq c (s.cell c).owner vs s' hnodup (by simpa only [hliveAt] using hlive) howner.symm
  obtain ⟨y, hy⟩ : ∃ y, y = s'.takeVictims rq c vs := ⟨_, rfl⟩
  simp only [← hy] at heffect hz hcells hvictims
  obtain ⟨htaken, hykept, -, hycell, hyothers, hyports, hystill, hydelivers⟩ := heffect
  have hcellz : z.cell c = { k with
      countA := k.countA - (vs.map s.demandAt).sum
      countC := k.countC + (vs.map s.demandAt).sum
      rankList := k.rankList.filter fun i => decide (i ∉ vs) } := by
    have hdemand : s'.demandAt = s.demandAt := by
      funext j
      unfold State.demandAt
      rw [hliveAt]
    rw [hcells, hycell, hchange.entry, hdemand]
  have hreserve : CellChange z (z.addR c ((s.cell c).limitOf ses.emergency - (s.cell c).use)) c
      (k.preempted (vs.map s.demandAt).sum ((s.cell c).limitOf ses.emergency - (s.cell c).use) vs) := by
    have h := (CellChange.refl z c).modCell
      (fun k => { k with countR := k.countR + ((s.cell c).limitOf ses.emergency - (s.cell c).use) })
      (by intro e; exact ⟨rfl, rfl, rfl⟩)
    rw [hcellz] at h
    exact h
  have hlevel : (z.cell c).level = (s.cell c).level := by
    rw [hcellz, ← hk]
  obtain ⟨hentry, hothers, hdelivers, hports, hstill⟩ := hreserve.recounted (by rw [hcellz]; rfl)
  rw [← hw] at hentry hothers hdelivers hports hstill
  have hzowner : (z.cell c).owner = (s.cell c).owner := by rw [hcellz, ← hk]
  rw [hzowner] at hdelivers hports
  have hlevels : levelNotices z w c = levelNotices s w c := by
    unfold levelNotices
    rw [hlevel]
  have hnotices : (vs.filterMap fun j => (s'.liveAt j).map fun x => s'.ringNotice j x.1 .releaseOrder .preempted)
      = vs.filterMap fun j => (s.liveAt j).map fun x => s.ringNotice j x.1 .releaseOrder .preempted := by
    refine List.filterMap_congr fun j _ => ?_
    rw [hliveAt]
    unfold State.ringNotice State.handleOf
    rw [hrec]
  have hkcounts : k.preempted (vs.map s.demandAt).sum ((s.cell c).limitOf ses.emergency - (s.cell c).use) vs = { k with
      countA := (s.cell c).countA - (vs.map s.demandAt).sum
      countC := (s.cell c).countC + (vs.map s.demandAt).sum
      countR := (s.cell c).countR + ((s.cell c).limitOf ses.emergency - (s.cell c).use)
      rankList := (s.cell c).rankList.filter fun j => decide (j ∉ vs) } := by
    generalize (s.cell c).limitOf ses.emergency - (s.cell c).use = m
    rw [← hk]
    rfl
  refine ⟨⟨fun n j hn => ?_, ?_, ?_⟩, fun d hd => ?_, fun o ho => ?_, hstill⟩
  · obtain ⟨v, st, hl, hr⟩ := htaken n j hn
    refine ⟨v, st, (hliveAt j).symm.trans hl, ?_⟩
    rw [hw, State.recompute_record, State.addR, State.modCell_record, hvictims j (List.mem_of_getElem? hn), hr, hrec,
      State.noticeOf_congr (hrec j), State.pendingAfter_congr (hrec j) (hchange.port _), hchange.still.1.tick]
  · rw [← hkcounts]
    exact hentry
  · rw [hlevels] at hdelivers
    rw [hnotices] at hydelivers
    have hfirst : Delivers s y (s.cell c).owner (vs.filterMap fun j => (s.liveAt j).map fun x =>
        s.ringNotice j x.1 .releaseOrder .preempted) :=
      hydelivers.congr (hchange.port _).symm rfl (fun e => (hchange.isPending e).symm) fun _ => Iff.rfl
    exact hfirst.trans (hdelivers.after_unnoticed hz)
  · rw [hothers d hd, hcells, hyothers d hd, hchange.others d (by simpa using hd)]
  · have hzport : z.port o = y.port o := by
      unfold State.port
      rw [hz.ports]
    rw [hports o ho, hzport, hyports o ho, hchange.port]

/-! ### Preemption for a newcomer -/

/-- A newcomer that competes, does not fit and has victims is held (R46, R52). -/
theorem State.routeNewcomer_held {s : State} {r : Request} {ses : Session} {vs : List Nat}
    (hcompetes : s.outranksHead ses.key.cell ses) (h : s.takesVictims ses.key.cell ses vs) :
    s.routeNewcomer r ses = (s.admitHeld ses vs, reply .held (.handle (s.handleOf s.nextFree))) := by
  obtain ⟨hfits, hmay, hvictims⟩ := (State.takesVictims_iff ..).1 h
  refine (if_pos ((State.competes_iff s ses).2 hcompetes)).trans ((if_neg hfits).trans ((if_pos hmay).trans ?_))
  simp only [hvictims]

/-- What the admission of a newcomer by a preemption decision does (R52, R53). -/
theorem State.admitHeld_effect {s : State} {ses : Session} {i : Nat} {rest vs : List Nat} {c : CellIx}
    (hf : s.freeList = i :: rest) (hc : c = ses.key.cell) (hnodup : vs.Nodup)
    (hlive : ∀ j ∈ vs, ∃ v st, s.liveAt j = some (v, st) ∧ v.key.cell = c) (hi : i ∉ vs) {w : State}
    (hw : w = s.admitHeld ses vs) :
    Taken s w i ses (.held (vs.map s.handleOf) ((s.cell c).use + ses.demand - (s.cell c).limitOf ses.emergency)
        ((s.cell c).limitOf ses.emergency - (s.cell c).use) 0)
      ∧ RecordsKept s w (i :: vs) ∧ Preempted s w c ses (s.handleOf i) vs (s.cell c) ∧ CellsKept s w [c]
      ∧ PortsKept s w [(s.cell c).owner] ∧ Quiet s w ∧ ReserveRaised s w := by
  subst hc
  have hnext : s.nextFree = i := by rw [State.nextFree, hf]; rfl
  obtain ⟨y, hy⟩ : ∃ y, y = s.takeVictims (s.handleOf i) ses.key.cell vs := ⟨_, rfl⟩
  have hystill : Still s y := hy ▸ still_takeVictims ..
  obtain ⟨-, hykept, hylists, -⟩ := State.takeVictims_effect (s.handleOf i) ses.key.cell _ vs s hnodup hlive rfl
  rw [← hy] at hykept hylists
  have hyfree : y.freeList = i :: rest := hylists.1.trans hf
  have hyrec : y.record i = s.record i := hykept i hi
  obtain ⟨stage, hstage⟩ : ∃ stage, stage = s.heldStage ses.key.cell ses vs := ⟨_, rfl⟩
  obtain ⟨htaken, hkept, hreserve, hcells, hports, hquiet⟩ := y.takeRecord_taken ses stage i rest hyfree
  obtain ⟨z, hz⟩ : ∃ z, z = y.takeRecord ses stage := ⟨_, rfl⟩
  have hunnoticed : Unnoticed y z := hz ▸ Unnoticed.takeRecord y ses stage
  rw [← hz] at htaken hkept hreserve hcells hquiet
  have hwz : w = (z.addR ses.key.cell ((s.cell ses.key.cell).limitOf ses.emergency - (s.cell ses.key.cell).use)).recompute
      ses.key.cell := by
    rw [hw, hz, hstage, hy, ← hnext]
    rfl
  have hwrec (j : Nat) : w.record j = z.record j := by rw [hwz, State.recompute_record, State.addR, State.modCell_record]
  have hwfree : w.freeList = z.freeList := by rw [hwz, State.recompute_freeList]; rfl
  obtain ⟨hpreempted, hothers, hportsKept, hstill⟩ := State.takeVictims_preempted (ses := ses) (rq := s.handleOf i)
    (CellChange.refl s ses.key.cell) rfl (fun _ => rfl) hnodup hlive (hy ▸ hunnoticed)
    (by intro d; rw [← hy, State.cell, hcells]; rfl)
    (by intro j hj; rw [← hy]; exact hkept j (by simp; rintro rfl; exact hi hj)) hwz
  have hfind (k : Key) : w.findKey k = z.findKey k := by rw [hwz, State.recompute_findKey]; rfl
  refine ⟨?_, fun j hj => ?_, hpreempted, hothers, hportsKept, (hystill.1.trans hquiet).trans hstill.1, ?_⟩
  · obtain ⟨hfree, hrecord, hadd, hadded⟩ := htaken.kept (hwrec i) hwfree hfind
    have hhandle : y.handleOf i = s.handleOf i := by unfold State.handleOf; rw [hyrec]
    rw [hyrec, hstage] at hrecord
    rw [hhandle] at hadd
    refine ⟨hylists.1.symm.trans hfree, hrecord, hadd, fun k hk => (hadded k hk).trans ?_⟩
    unfold State.findKey
    rw [hylists.2]
  · rw [hwrec, hkept j (by simp at hj; simpa using hj.1), hykept j (by simp at hj; exact hj.2)]
  · have hevents := hystill.2
    have henable : y.eventEnable = s.eventEnable := hystill.1.eventEnable
    have hz := hreserve.kept hwfree hstill.2
    unfold ReserveRaised EventsKept at hz ⊢
    rw [hevents.1, hevents.2, henable] at hz
    exact hz

/-- The record at the head of the free list is not live (R8). -/
theorem StoreExact.head_free {s : State} (h : StoreExact s) {i : Nat} {rest : List Nat} (hf : s.freeList = i :: rest) :
    s.liveAt i = none := by
  have hfree : (s.record i).life = .free := ((h.free i).1 (by rw [hf]; exact List.mem_cons_self)).2
  unfold State.liveAt
  rw [hfree]

/-- Settles O35, by the effect of the decision in the state after the hand-over. -/
theorem admitPreemptsForANewcomer : Obligations.AdmitPreemptsForANewcomer := by
  intro s h l p r ses c victims hs hl hh hses hc hpass hcompetes hvictims hstore haccounts
  subst hh hses hc
  obtain ⟨i, rest, hf⟩ := State.admitPasses_head hpass
  obtain ⟨hnodup, hspec⟩ := hvictims.spec (haccounts.1 _)
  have hlive : ∀ j ∈ victims, ∃ v st, s.liveAt j = some (v, st) ∧ v.key.cell = r.key.cell := fun j hj => by
    obtain ⟨v, st, hl, hcell, -⟩ := hspec j hj
    exact ⟨v, st, hl, hcell⟩
  have hi : i ∉ victims := fun hi => by
    obtain ⟨v, st, hl, -⟩ := hlive i hi
    rw [((storeExact_iff s).1 hstore).head_free hf] at hl
    cases hl
  have hfree : (s.handOver l p).freeList = i :: rest := by rw [State.handOver_freeList, hf]
  have hnext : (s.handOver l p).nextFree = i := by rw [State.nextFree, hfree]; rfl
  have howner : (s.cell r.key.cell).owner = p := hpass.1
  have hroute := State.routeNewcomer_held (r := r) (ses := s.sessionOf r) (s := s.handOver l p)
    ((State.handOver_outranksHead ..).2 hcompetes) (State.takesVictims_handOver.2 hvictims)
  rw [hnext, State.handOver_handleOf] at hroute
  have heffect := State.admitHeld_effect (s := s.handOver l p) (ses := s.sessionOf r) (c := r.key.cell) hfree rfl hnodup
    (by simpa only [State.handOver_liveAt] using hlive) hi rfl
  rw [taken_handOver, recordsKept_handOver, cellsKept_handOver, reserveRaised_handOver, State.handOver_cell,
    State.handOver_handleOf, howner] at heffect
  obtain ⟨htaken, hkept, hpreempted, hcells, hports, hquiet, hreserve⟩ := heffect
  have hhandles : victims.map (s.handOver l p).handleOf = victims.map s.handleOf := by
    refine List.map_congr_left fun j _ => State.handOver_handleOf ..
  rw [hhandles] at htaken
  exact ⟨_, i, State.exec_admit_passed hs hl hpass hroute, htaken, hkept, hpreempted, hcells, hports, hquiet, hreserve⟩

/-! ### Queue service passes -/

/-- A pass stops at once at a head that cannot be admitted (R85). -/
theorem State.servicePass_stops {s : State} {c : CellIx} {i : Nat} {rest : List Nat} (hq : (s.cell c).queue = i :: rest)
    (h : s.tryHead c i = none) : s.servicePass c = s := by
  unfold State.servicePass
  split
  · rw [hq]
    simp only [List.length_cons, State.passSteps, hq, h]
  · rfl

theorem State.servicePass_idle {s : State} {c : CellIx} (h : s.passRuns c = false) : s.servicePass c = s :=
  if_neg (by simp [h])

section
variable {s : State} {c : CellIx} {i : Nat} {ses : Session} {st : Stage}

/-- A head that cannot be admitted (R82): an ordinary one in a BARRED cell, or one that neither fits nor finds its victims. -/
theorem State.tryHead_none (hl : s.liveAt i = some (ses, st)) (h : (s.cell c).state = .barred ∧ ses.emergency = false
    ∨ ¬ s.fits c ses.emergency ses.demand ∧ ∀ victims, ¬ s.takesVictims c ses victims) : s.tryHead c i = none := by
  unfold State.tryHead
  rw [hl]
  by_cases hbarred : (s.cell c).state = .barred ∧ ses.emergency = false
  · exact if_pos hbarred
  · obtain ⟨hfits, hno⟩ := h.resolve_left hbarred
    refine (if_neg hbarred).trans ((if_neg hfits).trans ?_)
    by_cases hmay : s.mayPreempt ses = true
    · refine (if_pos hmay).trans ?_
      rw [Option.map_eq_none_iff]
      cases hv : s.victimsFor c ses with
      | none => rfl
      | some vs => exact absurd ((State.takesVictims_iff ..).2 ⟨hfits, hmay, hv⟩) (hno vs)
    · exact if_neg hmay

theorem State.tryHead_fits (hl : s.liveAt i = some (ses, st)) (hst : ¬ ((s.cell c).state = .barred ∧ ses.emergency = false))
    (h : s.fits c ses.emergency ses.demand) : s.tryHead c i = some (s.serveHead c i ses) := by
  unfold State.tryHead
  rw [hl]
  exact (if_neg hst).trans (if_pos h)

theorem State.tryHead_preempts {vs : List Nat} (hl : s.liveAt i = some (ses, st))
    (hst : ¬ ((s.cell c).state = .barred ∧ ses.emergency = false)) (h : s.takesVictims c ses vs) :
    s.tryHead c i = some (s.holdHead c i ses vs) := by
  obtain ⟨hfits, hmay, hvictims⟩ := (State.takesVictims_iff ..).1 h
  unfold State.tryHead
  rw [hl]
  refine (if_neg hst).trans ((if_neg hfits).trans ((if_pos hmay).trans ?_))
  rw [hvictims]
  rfl

/-- An OPEN cell serves any head, and a BARRED one an emergency head (R82). -/
theorem not_barred_of_served {state : CellState} {e : Bool} (h : state = .opened ∨ state = .barred ∧ e = true) :
    ¬ (state = .barred ∧ e = false) := by
  rcases h with rfl | ⟨-, rfl⟩ <;> simp

theorem State.passRuns_of_served {e : Bool} (h : (s.cell c).state = .opened ∨ (s.cell c).state = .barred ∧ e = true)
    (hp : (s.port (s.cell c).owner).state ≠ .draining) : s.passRuns c = true :=
  State.passRuns_iff.2 ⟨h.imp_right fun hb => hb.1, hp⟩

end

/-- The head of a queue left for SETUP, before its notice (R83). -/
theorem State.headServed_change (s : State) {c : CellIx} {i : Nat} {rest : List Nat} {k : Cell} (hk : k = s.cell c)
    (hq : k.queue = i :: rest) (hi : i ∉ rest) (ses : Session) :
    CellChange s (((s.leaveQueue c i).setLive i ses (setupStage s.tick ses)).countSetup c i ses) c
      (s.counted { k with queue := rest, enqueueOrder := k.enqueueOrder.filter fun j => decide (j ≠ i) } i ses) := by
  have hleft : CellChange s (s.leaveQueue c i) c
      { k with queue := rest, enqueueOrder := k.enqueueOrder.filter fun j => decide (j ≠ i) } := by
    have h := (CellChange.refl s c).modCell (fun k => { k with
      queue := k.queue.filter fun j => decide (j ≠ i)
      enqueueOrder := k.enqueueOrder.filter fun j => decide (j ≠ i) }) (by intro e; exact ⟨rfl, rfl, rfl⟩)
    rw [← hk, hq, filter_ne_head i rest hi] at h
    exact h
  exact hleft.countSetup i ses _ fun _ _ => rfl

/-- Settles O40, by the cases of a pass at the head of the queue. -/
theorem passesAdmitHeadsUntilOneFails : Obligations.PassesAdmitHeadsUntilOneFails := by
  refine ⟨fun s c => ⟨fun h => ?_, fun i rest ses st hq hl h => ?_⟩, fun s c i rest ses st k hk hstate hport hq hi hl hc hfits => ?_⟩
  · have idle (h : ¬ s.passRuns c = true) : s.servicePass c = s := State.servicePass_idle (by simpa using h)
    rcases h with h | h | h | h
    · exact idle (by rw [State.passRuns_iff, h]; simp)
    · exact idle (by rw [State.passRuns_iff, h]; simp)
    · exact idle (by rw [State.passRuns_iff]; exact fun hr => hr.2 h)
    · exact State.servicePass_empty s c h
  · exact State.servicePass_stops hq (State.tryHead_none hl h)
  · subst hk
    obtain ⟨x, hx⟩ : ∃ x, x = ((s.leaveQueue c i).setLive i ses (setupStage s.tick ses)).countSetup c i ses := ⟨_, rfl⟩
    obtain ⟨w, hw⟩ : ∃ w, w = s.serveHead c i ses := ⟨_, rfl⟩
    have hchange := s.headServed_change rfl hq hi ses
    rw [← hx] at hchange
    have hrec (j : Nat) : x.record j
        = if j = i then { s.record i with life := .live ses (setupStage s.tick ses) } else s.record j := by
      rw [hx, State.countSetup_record, State.record_setLive]
      rfl
    have hlive : x.liveAt i = some (ses, .setup s.tick (guardAt s.tick ses.setupGuard)) := by
      rw [State.liveAt_eq_some, hrec, if_pos rfl]
      rfl
    obtain ⟨hself, hkept, hlists, hentry, hcells, hports, hstill, hdelivers⟩ :=
      hchange.noticed rfl hlive hc (by rw [hrec, if_pos rfl]) .grant .fromQueue (w := w) (by rw [hw, hx]; rfl)
    have hxlists : StoreListsKept s x := by
      rw [hx]
      exact State.countSetup_storeLists ((s.leaveQueue c i).setLive i ses (setupStage s.tick ses)) c i ses
    have hruns := State.passRuns_of_served hstate hport
    have hqueue : (w.cell c).queue = rest := by
      have h := congrArg Cell.queue hentry
      exact h
    refine ⟨w, State.servicePass_step hruns hq ((State.tryHead_fits hl (not_barred_of_served hstate) hfits).trans (by rw [hw]))
      (hstill.1.passRuns.trans hruns) hqueue, hself, fun j hj => ?_, ⟨hlists.1.trans hxlists.1, hlists.2.trans hxlists.2⟩,
      hentry, hcells, hports, hstill, hdelivers⟩
    rw [hkept j hj, hrec, if_neg (by simpa using hj)]

/-- Settles O41: the head leaves the queue, its victims are taken, and its record is written (R52, R83). -/
theorem passesHoldAHeadThatPreempts : Obligations.PassesHoldAHeadThatPreempts := by
  intro s c i rest victims ses st k hk hstate hport hq hl hvictims hstore haccounts
  subst hk
  obtain ⟨-, -, -, hqnodup, -, hqmem, -⟩ := haccounts.1 c
  obtain ⟨hnodup, hspec⟩ := hvictims.spec (haccounts.1 c)
  obtain ⟨ses', st', hl', hc, hqueued⟩ := (hqmem i).1 (by rw [hq]; exact List.mem_cons_self)
  obtain ⟨rfl, rfl⟩ : ses = ses' ∧ st = st' := by simpa using hl.symm.trans hl'
  have hi : i ∉ rest := by
    rw [hq] at hqnodup
    exact (List.nodup_cons.1 hqnodup).1
  have hiv : i ∉ victims := fun hi => by
    obtain ⟨v, vst, hvl, -, hadmitted⟩ := hspec i hi
    rw [hl] at hvl
    cases hvl
    cases st <;> simp [Stage.isQueued, Stage.isAdmitted] at hqueued hadmitted
  have hlive : ∀ j ∈ victims, ∃ v st, s.liveAt j = some (v, st) ∧ v.key.cell = c := fun j hj => by
    obtain ⟨v, vst, hvl, hcell, -⟩ := hspec j hj
    exact ⟨v, vst, hvl, hcell⟩
  obtain ⟨w, hw⟩ : ∃ w, w = s.holdHead c i ses victims := ⟨_, rfl⟩
  obtain ⟨stage, hstage⟩ : ∃ stage, stage = s.heldStage c ses victims := ⟨_, rfl⟩
  have hleft : CellChange s (s.leaveQueue c i) c { s.cell c with
      queue := rest, enqueueOrder := (s.cell c).enqueueOrder.filter fun j => decide (j ≠ i) } := by
    have h := (CellChange.refl s c).modCell (fun k => { k with
      queue := k.queue.filter fun j => decide (j ≠ i)
      enqueueOrder := k.enqueueOrder.filter fun j => decide (j ≠ i) }) (by intro e; exact ⟨rfl, rfl, rfl⟩)
    rw [hq, filter_ne_head i rest hi] at h
    exact h
  obtain ⟨y, hy⟩ : ∃ y, y = (s.leaveQueue c i).takeVictims (s.handleOf i) c victims := ⟨_, rfl⟩
  obtain ⟨-, hykept, hylists, -⟩ := State.takeVictims_effect (s.handleOf i) c _ victims (s.leaveQueue c i) hnodup hlive rfl
  rw [← hy] at hykept hylists
  have hwz : w = ((y.setLive i ses stage).addR c ((s.cell c).limitOf ses.emergency - (s.cell c).use)).recompute c := by
    rw [hw, hy, hstage]
    rfl
  have hwrec (j : Nat) : w.record j = if j = i then { y.record i with life := .live ses stage } else y.record j := by
    rw [hwz, State.recompute_record, State.addR, State.modCell_record, State.record_setLive]
  obtain ⟨hpreempted, hothers, hports, hstill⟩ := State.takeVictims_preempted (ses := ses) (rq := s.handleOf i) hleft rfl
    (fun _ => rfl) hnodup hlive (hy ▸ Unnoticed.setLive y i ses stage) (by intro d; rw [← hy]; rfl)
    (by intro j hj; rw [← hy, State.record_setLive, if_neg (by rintro rfl; exact hiv hj)]) hwz
  have hall : Still s w := ((hleft.still.trans (hy ▸ still_takeVictims ..)).trans (still_setLive y i ses stage)).trans hstill
  have hruns := State.passRuns_of_served hstate hport
  have hqueue : (w.cell c).queue = rest := by
    have h := congrArg Cell.queue hpreempted.2.1
    exact h
  refine ⟨w, State.servicePass_step hruns hq ((State.tryHead_preempts hl (not_barred_of_served hstate) hvictims).trans
    (by rw [hw])) (hall.1.passRuns.trans hruns) hqueue, ?_, fun j hj => ?_, ⟨?_, ?_⟩, hpreempted, hothers, hports, hall⟩
  · rw [hwrec, if_pos rfl, hykept i hiv, hstage]
    rfl
  · obtain ⟨hji, hjv⟩ : j ≠ i ∧ j ∉ victims := by simpa using hj
    rw [hwrec, if_neg hji, hykept j hjv]
    rfl
  · rw [hwz, State.recompute_freeList]
    exact hylists.1
  · rw [hwz, State.recompute_directory]
    exact hylists.2

end Sys2Proof.Machine
end

section
/-! Proof of the statement about a Move that passes its checks (5.6). -/

namespace Sys2Proof.Machine

/-- The state of a Move before its two recomputes (R109). -/
def State.rekeyed (s : State) (i : Nat) (ses : Session) (st : Stage) (target : CellIx) : State :=
  let moved := s.movedSession ses target
  let s1 := ((s.subA ses.key.cell ses.demand).leaveRank ses.key.cell i).dropKey ses.key
  ((s1.setLive i moved (st.restamped s.tick)).addKey moved.key (s.handleOf i)).countSetup target i moved

theorem State.relocate_eq (s : State) (i : Nat) (ses : Session) (st : Stage) (target : CellIx) :
    s.relocate i ses st target = ((s.rekeyed i ses st target).recompute ses.key.cell).recompute target := rfl

section
variable {s x w : State} {i : Nat} {ses : Session} {st : Stage} {target : CellIx}

theorem State.movedSession_key_ne (h : target ≠ ses.key.cell) : ses.key ≠ (s.movedSession ses target).key :=
  fun hk => h (congrArg Key.cell hk).symm

/-- What a Move leaves of the record store before its recomputes. -/
theorem State.rekeyed_store (hx : x = s.rekeyed i ses st target) (hne : target ≠ ses.key.cell) :
    (∀ j, x.record j = if j = i then { s.record i with life := .live (s.movedSession ses target) (st.restamped s.tick) }
        else s.record j)
      ∧ x.freeList = s.freeList ∧ x.findKey ses.key = none ∧ x.findKey (s.movedSession ses target).key = some (s.handleOf i)
      ∧ ∀ k, k ≠ ses.key → k ≠ (s.movedSession ses target).key → x.findKey k = s.findKey k := by
  subst hx
  obtain ⟨s1, hs1⟩ : ∃ s1, s1 = ((s.subA ses.key.cell ses.demand).leaveRank ses.key.cell i).dropKey ses.key := ⟨_, rfl⟩
  obtain ⟨s2, hs2⟩ : ∃ s2, s2 = (s1.setLive i (s.movedSession ses target) (st.restamped s.tick)).addKey
    (s.movedSession ses target).key (s.handleOf i) := ⟨_, rfl⟩
  have hx : s.rekeyed i ses st target = s2.countSetup target i (s.movedSession ses target) := by rw [hs2, hs1]; rfl
  obtain ⟨hfree, hdirectory⟩ := State.countSetup_storeLists s2 target i (s.movedSession ses target)
  have hfind (k : Key) : (s.rekeyed i ses st target).findKey k = s2.findKey k := by
    rw [hx]
    unfold State.findKey
    rw [hdirectory]
  have hdropped (k : Key) (hk : k ≠ ses.key) : s1.findKey k = s.findKey k := by
    rw [hs1]
    exact State.findKey_dropKey_ne _ ses.key k hk
  refine ⟨fun j => ?_, ?_, ?_, ?_, fun k h1 h2 => ?_⟩
  · rw [hx, State.countSetup_record, hs2, show ∀ u : State, ∀ k h, (u.addKey k h).record j = u.record j from fun _ _ _ => rfl,
      State.record_setLive, hs1]
    rfl
  · rw [hx, hfree, hs2, hs1]
    rfl
  · rw [hfind, hs2, State.findKey_addKey_ne _ _ _ _ (State.movedSession_key_ne hne), hs1]
    exact State.findKey_dropKey_self _ _
  · rw [hfind, hs2]
    exact State.findKey_addKey_self _ _ _
  · rw [hfind, hs2, State.findKey_addKey_ne _ _ _ _ h2]
    exact hdropped k h1

/-- What a Move leaves of the cells before its recomputes. -/
theorem State.rekeyed_cells (hx : x = s.rekeyed i ses st target) (hne : target ≠ ses.key.cell) :
    x.cell ses.key.cell = { s.cell ses.key.cell with
        countA := (s.cell ses.key.cell).countA - ses.demand
        rankList := (s.cell ses.key.cell).rankList.filter fun j => decide (j ≠ i) }
      ∧ x.cell target = s.counted (s.cell target) i (s.movedSession ses target)
      ∧ CellsKept s x [ses.key.cell, target] ∧ Still s x ∧ Unnoticed s x := by
  subst hx
  obtain ⟨s1, hs1⟩ : ∃ s1, s1 = ((s.subA ses.key.cell ses.demand).leaveRank ses.key.cell i).dropKey ses.key := ⟨_, rfl⟩
  obtain ⟨s2, hs2⟩ : ∃ s2, s2 = (s1.setLive i (s.movedSession ses target) (st.restamped s.tick)).addKey
    (s.movedSession ses target).key (s.handleOf i) := ⟨_, rfl⟩
  have hs1cell : ((s.subA ses.key.cell ses.demand).leaveRank ses.key.cell i).cell ses.key.cell = { s.cell ses.key.cell with
      countA := (s.cell ses.key.cell).countA - ses.demand
      rankList := (s.cell ses.key.cell).rankList.filter fun j => decide (j ≠ i) } := by
    rw [State.leaveRank, State.cell_modCell_self, State.subA, State.cell_modCell_self]
  have hs1other (d : CellIx) (hd : d ≠ ses.key.cell) :
      ((s.subA ses.key.cell ses.demand).leaveRank ses.key.cell i).cell d = s.cell d := by
    rw [State.leaveRank, State.cell_modCell_ne _ _ _ _ hd, State.subA, State.cell_modCell_ne _ _ _ _ hd]
  have hs2cell (d : CellIx) : s2.cell d = ((s.subA ses.key.cell ses.demand).leaveRank ses.key.cell i).cell d := by
    rw [hs2, hs1]
    rfl
  have hlevels (j : Nat) : s2.levelAt j = s.levelsWith i (s.movedSession ses target).level j := by
    have h := State.levelAt_setLive s1 i j (s.movedSession ses target) (st.restamped s.tick)
    rw [hs2]
    exact h.trans (by rw [hs1]; rfl)
  have hlevel : s2.levelAt i = (s.movedSession ses target).level := (hlevels i).trans (if_pos rfl)
  have hx : s.rekeyed i ses st target = s2.modCell target fun k => s2.counted k i (s.movedSession ses target) := by
    rw [← State.countSetup_eq _ _ _ _ hlevel, hs2, hs1]
    rfl
  have hcounted (k : Cell) : s2.counted k i (s.movedSession ses target) = s.counted k i (s.movedSession ses target) :=
    State.counted_congr (fun j hj => (hlevels j).trans (if_neg hj)) k _
  have hstill : Still s s2 := by
    rw [hs2, hs1]
    exact ((((still_subA ..).trans (still_leaveRank ..)).trans (still_dropKey ..)).trans (still_setLive ..)).trans (still_addKey ..)
  have hunnoticed : Unnoticed s s2 := by
    rw [hs2, hs1]
    exact ((((Unnoticed.subA ..).trans (.leaveRank ..)).trans (.store _ _ _)).trans (.setLive ..)).trans (.store _ _ _)
  rw [hx]
  refine ⟨?_, ?_, fun d hd => ?_, hstill.trans (still_modCell _ _ _ fun _ => rfl),
    hunnoticed.trans (.modCell _ _ _ (by intro k; exact ⟨rfl, rfl⟩))⟩
  · rw [State.cell_modCell_ne _ _ _ _ hne.symm, hs2cell, hs1cell]
  · rw [State.cell_modCell_self, hs2cell, hs1other _ hne, hcounted]
  · obtain ⟨h1, h2⟩ : d ≠ ses.key.cell ∧ d ≠ target := by simpa using hd
    rw [State.cell_modCell_ne _ _ _ _ h2, hs2cell, hs1other _ h1]

/-- What two recomputes in a row do, of two cells of one port (R109, R136; the order is log entry 18). -/
theorem State.recompute_both {c d : CellIx} {p : PortIx} (hne : d ≠ c) (hc : (x.cell c).owner = p) (hd : (x.cell d).owner = p)
    (hw : w = (x.recompute c).recompute d) :
    CellIs w c (x.cell c).recomputed ∧ CellIs w d (x.cell d).recomputed ∧ CellsKept x w [c, d]
      ∧ Delivers x w p (levelNotices x w c ++ levelNotices x w d) ∧ PortsKept x w [p] ∧ Still x w := by
  obtain ⟨u, hu⟩ : ∃ u, u = x.recompute c := ⟨_, rfl⟩
  obtain ⟨hc1, hc2, hc3, hc4, hc5⟩ := x.recompute_recounted c
  obtain ⟨hd1, hd2, hd3, hd4, hd5⟩ := u.recompute_recounted d
  rw [← hu] at hc1 hc2 hc3 hc4 hc5
  rw [hu, ← hw] at hd1 hd2 hd3 hd4 hd5
  rw [← hu] at hd1 hd2 hd3 hd4 hd5
  have hud : u.cell d = x.cell d := hc2 d (by simpa using hne)
  have hwc : w.cell c = u.cell c := hd2 c (by simpa using hne.symm)
  rw [hc] at hc3 hc4
  rw [hud, hd] at hd3 hd4
  have hlevelc : levelNotices x u c = levelNotices x w c := by
    unfold levelNotices
    rw [hwc]
  have hleveld : levelNotices u w d = levelNotices x w d := by
    unfold levelNotices
    rw [hud]
  rw [hlevelc] at hc3
  rw [hleveld] at hd3
  rw [hud] at hd1
  refine ⟨?_, hd1, fun e he => ?_, hc3.trans hd3, fun o ho => (hd4 o ho).trans (hc4 o ho), hc5.trans hd5⟩
  · unfold CellIs
    rw [hwc]
    exact hc1
  · obtain ⟨h1, h2⟩ : e ≠ c ∧ e ≠ d := by simpa using he
    rw [hd2 e (by simpa using h2), hc2 e (by simpa using h1)]

end

/-- Settles O29, by the state before the two recomputes and what they do. -/
theorem moveCarriesTheSession : Obligations.MoveCarriesTheSession := by
  intro s h l p r ses moved st source target i hs hr hst hh hsource htarget hne hi howner hstate hmoved hfind hfits
  have htarget : target = r.target := htarget
  subst hh hsource htarget hi
  have hsession : moved = (s.handOver l p).movedSession ses r.target := by
    unfold State.movedSession ServiceClass.moveLevel ServiceClass.levelInUse
    rw [State.handOver_classAt]
    exact hmoved
  have hsource : (s.cell ses.key.cell).owner = p := hr.2
  have hrefusal : (s.handOver l p).moveRefusal ses r.target = none := by
    rw [State.handOver_moveRefusal]
    refine State.moveRefusal_none (howner.trans hsource.symm) (cellRefusal_none hstate) ?_ hfits
    rw [← hfind, hsession]
    unfold State.movedSession
    rfl
  have hexec := State.exec_move hs hr
  rw [State.moveRecord_admitted hst, State.moveTo, hrefusal] at hexec
  simp only [State.carryRecord_eq, ← hsession] at hexec
  obtain ⟨x, hx⟩ : ∃ x, x = (s.handOver l p).rekeyed r.handle.index ses st r.target := ⟨_, rfl⟩
  obtain ⟨w, hw⟩ : ∃ w, w = (s.handOver l p).relocate r.handle.index ses st r.target := ⟨_, rfl⟩
  obtain ⟨hrec, hfree, hgone, hadded, hkeys⟩ := State.rekeyed_store hx hne
  obtain ⟨hxsource, hxtarget, hxcells, hxstill, hxunnoticed⟩ := State.rekeyed_cells hx hne
  have hwx : w = (x.recompute ses.key.cell).recompute r.target := by rw [hw, State.relocate_eq, hx]
  rw [← hsession] at hadded hkeys hxtarget
  simp only [← hsession] at hrec
  rw [State.handOver_cell] at hxsource hxtarget
  rw [State.counted_handOver] at hxtarget
  obtain ⟨h1, h2, h3, h4, h5, h6⟩ := State.recompute_both hne (p := p) (by rw [hxsource]; exact hsource)
    (by rw [hxtarget]; exact howner) hwx
  have hwrec (j : Nat) : w.record j = x.record j := by rw [hwx, State.recompute_record, State.recompute_record]
  have hwfind (k : Key) : w.findKey k = x.findKey k := by rw [hwx, State.recompute_findKey, State.recompute_findKey]
  have hhandle : (s.handOver l p).handleOf r.handle.index = r.handle := (State.handOver_handleOf ..).trans hr.1.2.1
  have hlevels : levelNotices x w ses.key.cell ++ levelNotices x w r.target
      = levelNotices s w ses.key.cell ++ levelNotices s w r.target := by
    unfold levelNotices
    rw [hxsource, hxtarget]
    rfl
  rw [hxsource] at h1
  rw [hxtarget] at h2
  rw [hlevels] at h4
  refine ⟨w, by rw [hw]; exact hexec, ?_, fun j hj => ?_, ?_, ?_, ?_, fun k hk1 hk2 => ?_, h1, h2, fun d hd => ?_,
    h4.after_unnoticed hxunnoticed, fun o ho => ?_, hxstill.trans h6⟩
  · rw [hwrec, hrec, if_pos rfl, State.handOver_record, State.handOver_tick]
    cases st with
    | setup _ _ => rfl
    | active _ => rfl
    | queued _ _ _ => cases hst
    | held _ _ _ _ => cases hst
    | ceding _ _ _ => cases hst
  · rw [hwrec, hrec, if_neg (by simpa using hj), State.handOver_record]
  · rw [hwx, State.recompute_freeList, State.recompute_freeList, hfree, State.handOver_freeList]
  · rw [hwfind, hgone]
  · rw [hwfind, hadded, hhandle]
  · rw [hwfind, hkeys k hk1 hk2, State.handOver_findKey]
  · rw [h3 d hd, hxcells d hd, State.handOver_cell]
  · rw [h5 o ho, State.port, hxunnoticed.ports]
    rfl

end Sys2Proof.Machine
end

section
/-! Proofs of the statements about the placing of notices, the attention line, the entry to DRAINING and the expiries
(chapters 6, 8 and 9). -/

namespace Sys2Proof.Machine

/-! ### Placing notices -/

theorem Port.room_pos {q : Port} (hb : q.backlog = []) (hr : q.ring.length < q.ringSize) : 0 < q.room := by
  unfold Port.room
  rw [if_pos hb]
  omega

theorem Port.room_zero {q : Port} (h : q.backlog ≠ [] ∨ q.ringSize ≤ q.ring.length) : q.room = 0 := by
  unfold Port.room
  split
  · next hb =>
    have := h.resolve_left (not_not.2 hb)
    omega
  · rfl

/-- Settles O43, by the three cases of R152 for each family of notices. -/
theorem noticesArePlacedOrCoalesced : Obligations.NoticesArePlacedOrCoalesced := by
  refine ⟨fun s w i ses st kind cause p q hl hp hq hw => ?_, fun s w c p q hp hq hw => ?_⟩
  · subst hq hw
    rcases s.raiseSession_cases i kind cause ses st hl p hp with ⟨hd, h⟩ | ⟨hd, hroom, h⟩ | ⟨hd, hroom, h⟩
    · exact ⟨fun _ => h, fun hn => absurd hd hn, fun hn => absurd hd hn⟩
    · rw [h]
      refine ⟨fun hn => absurd hn hd, fun _ _ _ => ⟨s.portsKept_modPort p _, rfl, s.port_modPort_self p _⟩, fun _ hfull => ?_⟩
      rw [Port.room_zero hfull] at hroom
      exact absurd hroom (lt_irrefl _)
    · rw [h]
      refine ⟨fun hn => absurd hn hd, fun _ hb hr => ?_, fun _ _ => ⟨?_, fun j hj => ?_, rfl, ?_, ?_⟩⟩
      · have := Port.room_pos hb hr
        omega
      · exact fun o ho => (s.setPending i _).portsKept_modPort p _ o ho
      · rw [State.modPort_record, State.record_setPending, if_neg (by simpa using hj)]
      · rw [State.modPort_record, State.record_setPending, if_pos rfl]
        rfl
      · rw [State.port_modPort_self, State.setPending_port]
        split
        · rfl
        · rw [List.append_nil]
  · subst hq hw
    rcases s.raiseLevel_cases c p hp with ⟨hd, h⟩ | ⟨hd, hroom, h⟩ | ⟨hd, hroom, h⟩
    · exact ⟨fun _ => h, fun hn => absurd hd hn, fun hn => absurd hd hn⟩
    · rw [h]
      refine ⟨fun hn => absurd hn hd, fun _ _ _ => ⟨s.portsKept_modPort p _, rfl, s.port_modPort_self p _⟩, fun _ hfull => ?_⟩
      rw [Port.room_zero hfull] at hroom
      exact absurd hroom (lt_irrefl _)
    · rw [h]
      refine ⟨fun hn => absurd hn hd, fun _ hb hr => ?_, fun _ _ => ⟨?_, fun d hd => ?_, rfl, ?_, ?_⟩⟩
      · have := Port.room_pos hb hr
        omega
      · exact fun o ho => (s.modCell c _).portsKept_modPort p _ o ho
      · exact s.cell_modCell_ne c d (fun k => { k with pendingLevel := true }) (by simpa using hd)
      · exact s.cell_modCell_self c fun k => { k with pendingLevel := true }
      · rw [State.port_modPort_self]
        split
        · exact congrArg (fun b => ({ s.port p with backlog := b } : Port)) (List.append_nil _)
        · rfl

/-! ### The attention line -/

/-- Settles O44, by the settings of the port. -/
theorem theAttentionLineFollowsTheRing : Obligations.TheAttentionLineFollowsTheRing := by
  refine ⟨fun q n now before hn => ?_, fun s p hp => ?_⟩
  · have hring : decide (0 < q.ring.length) = decide (q.ring ≠ []) := by
      rw [decide_eq_decide]
      exact List.length_pos_iff
    subst hn
    unfold Port.followRing
    by_cases he : q.attnEnable = true
    · rw [if_pos he]
      by_cases hm : q.attnPulse = true
      · rw [if_pos hm]
        refine ⟨by split <;> rfl, fun h => absurd (he.symm.trans h) (by decide), fun _ h => absurd (hm.symm.trans h) (by decide),
          fun _ _ => ⟨fun hb hr hs => ?_, fun h => ?_⟩⟩
        · rw [if_pos ⟨hb, List.length_pos_iff.2 hr, hs⟩]
          exact ⟨rfl, rfl⟩
        · refine if_neg fun ⟨hb, hr, hs⟩ => ?_
          rcases h with h | h | h
          · exact h hb
          · rw [h] at hr
            exact absurd hr (lt_irrefl _)
          · exact h hs
      · rw [if_neg hm]
        exact ⟨rfl, fun h => absurd (he.symm.trans h) (by decide), fun _ _ => ⟨hring, rfl⟩, fun _ h => absurd h hm⟩
    · rw [if_neg he]
      exact ⟨rfl, fun _ => ⟨rfl, rfl⟩, fun h => absurd h he, fun h => absurd h he⟩
  · refine ⟨s.modPort p Port.endPulse, ?_, s.port_modPort_self p _, s.portsKept_modPort p _, rfl⟩
    show execPulseEnd p s = _
    have hdue : (s.port p).pulseDue s.tick = true := decide_eq_true hp
    rw [execPulseEnd, State.atPulseEnd, if_pos hdue]

/-! ### Entry to DRAINING -/

/-- The age that a port has reached at its timestamp plus the interval (R124). -/
theorem age_add {t : Tick} {n : Nat} (h : n ≤ 5000) : age (t + BitVec.ofNat 32 n) t = n := by
  unfold age
  rw [show t + BitVec.ofNat 32 n - t = BitVec.ofNat 32 n from by rw [BitVec.add_comm, BitVec.add_sub_cancel], BitVec.toNat_ofNat]
  omega

theorem portDownEvent_eq (p : PortIx) : portDownEvent p = 1#10 <<< p.val := by
  revert p
  decide

/-- Settles O46, by the entry that both commands make. -/
theorem portsEnterDraining : Obligations.PortsEnterDraining := by
  refine ⟨fun s l p r h hk hexact => ?_, fun s p hup hs htick hle hexact => ?_⟩
  · obtain ⟨u, hu⟩ : ∃ u, u = (s.handOver l p).answer p r (Reply.mk .ok false false false .empty) := ⟨_, rfl⟩
    have hbacklog : (u.port p).backlog = (s.port p).backlog := by
      rw [hu, State.answer, State.port_modPort_self]
      exact s.handOver_backlog l p p
    refine ⟨u.enterDraining p, ?_, hu ▸ State.enterDraining_enters u p ?_⟩
    · show execWithdraw s = _
      unfold execWithdraw
      rw [State.serve_taken h (decide_eq_true hk), hu]
      rfl
    · rw [hbacklog]
      exact hexact.2.2.2.2 p
  · refine ⟨s.enterDraining p, ?_, State.enterDraining_enters s p (hexact.2.2.2.2 p)⟩
    have hdue : s.supervisionDue p = true := by
      simp only [State.supervisionDue, State.watched, Bool.and_eq_true, decide_eq_true_eq]
      exact ⟨⟨hup, hs⟩, htick ▸ age_add hle⟩
    show execSupervisionExpiry p s = _
    rw [execSupervisionExpiry, State.atSupervision, if_pos hdue, State.expirePort, portDownEvent_eq]

/-! ### Expiries of records -/

/-- A record keeps its session through a change and a notice, and retires from there. -/
theorem State.retiredFrom_raise {s : State} {i : Nat} {ses : Session} {st : Stage} (h : s.liveAt i = some (ses, st))
    (kind : SessionNotice) (cause : Cause) :
    RetiredFrom (s.raiseSession i kind cause) ((s.raiseSession i kind cause).retire i) i ses :=
  State.retire_retiredFrom _ i ses st (by rw [State.raiseSession_liveAt, h])

theorem State.serviceWhen_decide (s : State) (c : CellIx) (P : Prop) [Decidable P] :
    s.serviceWhen (decide P) c = if P then s.servicePass c else s := by
  unfold State.serviceWhen
  simp only [decide_eq_true_eq]

/-- Settles O47, by the change, the notice and the retirement of each expiry. -/
theorem deadlinesExpireAtTheirTick : Obligations.DeadlinesExpireAtTheirTick := by
  refine ⟨⟨fun s i ses stamp c hl hc => ?_, fun s i ses arrival va c hl hc => ?_⟩, fun s x i ses stamp b c hl hc hx => ?_⟩
  · subst hc
    obtain ⟨hstore, hrecounted⟩ := s.subA_effect ses.key.cell ses.demand
    refine ⟨_, _, hstore, hrecounted, State.retiredFrom_raise (st := .setup stamp (some s.tick)) ?_ .expired .setupTimeout, ?_⟩
    · rw [State.recompute_liveAt]
      exact hl
    · show execSetupGuardExpiry i s = _
      rw [execSetupGuardExpiry, State.atSetupGuard, hl]
      exact congrArg _ (if_pos rfl)
  · subst hc
    refine ⟨_, State.retiredFrom_raise hl .expired .waitTimeout, ?_⟩
    show execWaitExpiry i s = _
    rw [execWaitExpiry, State.atWait, hl]
    refine congrArg _ ((if_pos rfl).trans ?_)
    rw [State.expireWait, State.isHead, State.serviceWhen_decide]
  · subst hc
    have hlive : (s.raiseSession i .forcedOut .graceExpired).liveAt i = some (ses, .ceding stamp b s.tick) := by
      rw [State.raiseSession_liveAt, hl]
    obtain ⟨st', hgone⟩ := State.giveUp_live _ i ses _ hlive
    refine ⟨x.retire i, State.retire_retiredFrom x i ses st' (by rw [hx]; exact hgone), ?_⟩
    show execGraceExpiry i s = _
    rw [execGraceExpiry, State.atGrace, hl]
    refine congrArg _ ((if_pos rfl).trans ?_)
    rw [State.expireGrace, ← hx, State.serviceWhen_decide]

end Sys2Proof.Machine
end

section
/-! Proofs of the statements about the Drain Engine: the order of a drain, completion, and the start and step of a job
(chapter 8). -/

namespace Sys2Proof.Machine

/-! ### The order of a drain -/

/-- The groups of R142, tried one after another. -/
theorem State.nextToDrain_eq (s : State) (c : CellIx) : s.nextToDrain c
    = (s.cell c).queue.getLast?.or ((s.groupOf c Stage.isHeld).head?.or ((s.groupOf c Stage.isCeding).head?.or
        (firstBy s.drainsBefore (s.groupOf c Stage.isAdmitted)))) := by
  unfold State.nextToDrain
  cases (s.cell c).queue.getLast? with
  | some i => rfl
  | none =>
    cases s.groupOf c Stage.isHeld with
    | cons i l => rfl
    | nil => cases s.groupOf c Stage.isCeding <;> rfl

/-- The head of a drain group is its member of lowest index. -/
theorem State.head_groupOf {s : State} {c : CellIx} {w : Stage → Bool} {i : Nat} (hs : s.storeCanonical = true)
    (h : (s.groupOf c w).head? = some i) : i ∈ s.groupOf c w ∧ ∀ j ∈ s.groupOf c w, j ≠ i → i < j := by
  have hsorted := s.groupOf_sorted (c := c) (w := w) hs
  cases hg : s.groupOf c w with
  | nil => rw [hg] at h; cases h
  | cons a l =>
    rw [hg] at h hsorted
    obtain rfl : a = i := Option.some.inj h
    refine ⟨List.mem_cons_self, fun j hj hne => ?_⟩
    exact (List.pairwise_cons.1 hsorted).1 j ((List.mem_cons.1 hj).resolve_left hne)

/-- A group with no first record has no record. -/
theorem State.groupOf_empty {s : State} {c : CellIx} {w : Stage → Bool} (h : (s.groupOf c w).head? = none) {i : Nat}
    {ses : Session} {st : Stage} (hl : s.liveAt i = some (ses, st)) (hc : ses.key.cell = c) : w st = false := by
  rw [List.head?_eq_none_iff] at h
  by_contra hw
  have hmem : i ∈ s.groupOf c w := State.mem_groupOf.2 ⟨ses, st, hl, hc, by simpa using hw⟩
  simp [h] at hmem

/-- The order of group 4 in terms of the records (R142). -/
theorem State.drainsBefore_live {s : State} {i j : Nat} {ses o : Session} {st ot : Stage} (hi : s.liveAt i = some (ses, st))
    (hj : s.liveAt j = some (o, ot)) (h : s.drainsBefore i j = true) :
    ses.level < o.level ∨ ses.level = o.level ∧ ((s.tick - st.stamp).toNat < (s.tick - ot.stamp).toNat
      ∨ (s.tick - st.stamp).toNat = (s.tick - ot.stamp).toNat ∧ j < i) := by
  simpa [State.drainsBefore, State.stampAt, State.levelAt, State.sessionAt, hi, hj, age] using h

/-- The record that a drain takes in a cell whose queue is empty comes before every other live record of the cell. -/
theorem State.nextToDrain_first {s : State} {c : CellIx} (hs : s.storeCanonical = true)
    (hq : ∀ i ses st, s.liveAt i = some (ses, st) → ses.key.cell = c → st.isQueued = false) {i : Nat}
    (hempty : (s.cell c).queue = []) (h : s.nextToDrain c = some i) :
    ∃ ses st, s.liveAt i = some (ses, st) ∧ ses.key.cell = c ∧ ∀ j o ot, s.liveAt j = some (o, ot) → o.key.cell = c → j ≠ i →
      (st.isHeld = true → ot.isHeld = true → i < j) ∧ (st.isHeld = false → ot.isHeld = false)
      ∧ (st.isCeding = true → ot.isCeding = true → i < j)
      ∧ (st.isAdmitted = true → ot.isAdmitted = true ∧ (ses.level < o.level ∨ ses.level = o.level
          ∧ ((s.tick - st.stamp).toNat < (s.tick - ot.stamp).toNat
            ∨ (s.tick - st.stamp).toNat = (s.tick - ot.stamp).toNat ∧ j < i))) := by
  rw [s.nextToDrain_eq, hempty, List.getLast?_nil, Option.none_or] at h
  cases hheld : (s.groupOf c Stage.isHeld).head? with
  | some a =>
    rw [hheld] at h
    obtain rfl : a = i := Option.some.inj h
    obtain ⟨hmem, hleast⟩ := State.head_groupOf hs hheld
    obtain ⟨ses, st, hl, hc, hst⟩ := State.mem_groupOf.1 hmem
    obtain ⟨hnc, hna⟩ := Stage.held_only hst
    refine ⟨ses, st, hl, hc, fun j o ot hj ho hne => ⟨fun _ hot => ?_, fun hf => ?_, fun hf => ?_, fun hf => ?_⟩⟩
    · exact hleast j (State.mem_groupOf.2 ⟨o, ot, hj, ho, hot⟩) hne
    · rw [hst] at hf; cases hf
    · rw [hnc] at hf; cases hf
    · rw [hna] at hf; cases hf
  | none =>
    have hnoheld : ∀ j o ot, s.liveAt j = some (o, ot) → o.key.cell = c → ot.isHeld = false :=
      fun j o ot hj ho => State.groupOf_empty hheld hj ho
    rw [hheld, Option.none_or] at h
    cases hced : (s.groupOf c Stage.isCeding).head? with
    | some a =>
      rw [hced] at h
      obtain rfl : a = i := Option.some.inj h
      obtain ⟨hmem, hleast⟩ := State.head_groupOf hs hced
      obtain ⟨ses, st, hl, hc, hst⟩ := State.mem_groupOf.1 hmem
      obtain ⟨hnh, hna⟩ := Stage.ceding_only hst
      refine ⟨ses, st, hl, hc, fun j o ot hj ho hne => ⟨fun hf => ?_, fun _ => hnoheld j o ot hj ho, fun _ hot => ?_, fun hf => ?_⟩⟩
      · rw [hnh] at hf; cases hf
      · exact hleast j (State.mem_groupOf.2 ⟨o, ot, hj, ho, hot⟩) hne
      · rw [hna] at hf; cases hf
    | none =>
      have hnoced : ∀ j o ot, s.liveAt j = some (o, ot) → o.key.cell = c → ot.isCeding = false :=
        fun j o ot hj ho => State.groupOf_empty hced hj ho
      rw [hced, Option.none_or] at h
      obtain ⟨hmem, hleast⟩ := (firstBy_least s.drainsBefore s.drainsBefore_trans s.drainsBefore_total _).2 i h
      obtain ⟨ses, st, hl, hc, hst⟩ := State.mem_groupOf.1 hmem
      obtain ⟨hnh, hnc⟩ := Stage.admitted_only hst
      refine ⟨ses, st, hl, hc, fun j o ot hj ho hne => ⟨fun hf => ?_, fun _ => hnoheld j o ot hj ho, fun hf => ?_, fun _ => ?_⟩⟩
      · rw [hnh] at hf; cases hf
      · rw [hnc] at hf; cases hf
      · have hot : ot.isAdmitted = true :=
          Stage.admitted_of_rest (hnoheld j o ot hj ho) (hnoced j o ot hj ho) (hq j o ot hj ho)
        exact ⟨hot, State.drainsBefore_live hl hj (hleast j (State.mem_groupOf.2 ⟨o, ot, hj, ho, hot⟩) hne)⟩

/-- A stage stands in the queue or in a drain group. -/
theorem Stage.in_group (st : Stage) :
    st.isQueued = true ∨ st.isHeld = true ∨ st.isCeding = true ∨ st.isAdmitted = true := by
  cases st <;> simp [Stage.isQueued, Stage.isHeld, Stage.isCeding, Stage.isAdmitted]

/-- A drain of a cell whose accounts are exact finds a record exactly while the cell holds a live one. -/
theorem State.nextToDrain_eq_none {s : State} {c : CellIx}
    (hqueue : ∀ i, i ∈ (s.cell c).queue ↔ ∃ ses st, s.liveAt i = some (ses, st) ∧ ses.key.cell = c ∧ st.isQueued = true) :
    s.nextToDrain c = none ↔ ∀ i ses st, s.liveAt i = some (ses, st) → ses.key.cell ≠ c := by
  rw [s.nextToDrain_eq, Option.or_eq_none_iff, Option.or_eq_none_iff, Option.or_eq_none_iff, List.getLast?_eq_none_iff,
    (firstBy_least s.drainsBefore s.drainsBefore_trans s.drainsBefore_total _).1]
  constructor
  · rintro ⟨hq, hh, hced, ha⟩ i ses st hl hc
    rcases st.in_group with hst | hst | hst | hst
    · have := (hqueue i).2 ⟨ses, st, hl, hc, hst⟩
      simp [hq] at this
    · simp [State.groupOf_empty hh hl hc] at hst
    · simp [State.groupOf_empty hced hl hc] at hst
    · simp [State.groupOf_empty (List.head?_eq_none_iff.2 ha) hl hc] at hst
  · intro h
    have hgroup : ∀ w : Stage → Bool, s.groupOf c w = [] := fun w =>
      List.eq_nil_iff_forall_not_mem.2 fun i hi => by
        obtain ⟨ses, st, hl, hc, -⟩ := State.mem_groupOf.1 hi
        exact h i ses st hl hc
    refine ⟨List.eq_nil_iff_forall_not_mem.2 fun i hi => ?_, by rw [hgroup]; rfl, by rw [hgroup]; rfl, hgroup _⟩
    obtain ⟨ses, st, hl, hc, -⟩ := (hqueue i).1 hi
    exact h i ses st hl hc

/-- Settles O48, by the groups of R142 in their order. -/
theorem drainsFollowTheOrder : Obligations.DrainsFollowTheOrder := by
  unfold Obligations.DrainsFollowTheOrder
  intro s c hcell hs
  obtain ⟨-, -, -, -, -, hqueue, -⟩ := hcell
  refine ⟨fun i q hq => ?_, fun hempty i h => State.nextToDrain_first hs (fun j o ot hj ho => ?_) hempty h,
    State.nextToDrain_eq_none hqueue⟩
  · rw [s.nextToDrain_eq, hq, List.getLast?_concat]; rfl
  · by_contra hst
    have := (hqueue j).2 ⟨o, ot, hj, ho, by simpa using hst⟩
    simp [hempty] at this

/-! ### Completion -/

theorem State.liveIn_isEmpty {s : State} {c : CellIx} :
    (s.liveIn c).isEmpty = true ↔ ∀ i ses st, s.liveAt i = some (ses, st) → ses.key.cell ≠ c := by
  rw [List.isEmpty_iff, List.eq_nil_iff_forall_not_mem]
  simp only [State.mem_liveIn, not_exists, not_and, ne_eq]

theorem State.portEmpty_iff {s : State} {p : PortIx} :
    s.portEmpty p = true ↔ ∀ i ses st, s.liveAt i = some (ses, st) → (s.cell ses.key.cell).owner ≠ p := by
  unfold State.portEmpty State.cellsOf
  simp only [List.all_eq_true, List.mem_filter, List.mem_finRange, true_and, decide_eq_true_eq, State.liveIn_isEmpty]
  constructor
  · intro h i ses st hl ho
    exact h _ ho i ses st hl rfl
  · rintro h c ho i ses st hl rfl
    exact h i ses st hl ho

/-- What the entry of a cell to CLOSED does (R28, R131, R136). -/
theorem State.closeCell_effect (s : State) (c : CellIx) :
    CellIs (s.closeCell c) c { s.cell c with state := .closed, level := 0 } ∧ CellsKept s (s.closeCell c) [c]
    ∧ StoreKept s (s.closeCell c) ∧ Delivers s (s.closeCell c) (s.cell c).owner (levelNotices s (s.closeCell c) c)
    ∧ PortsKept s (s.closeCell c) [(s.cell c).owner] ∧ EventsKept s (s.closeCell c)
    ∧ (s.closeCell c).background = s.background := by
  let closed : Cell → Cell := fun k => { k with state := .closed, level := 0 }
  have hc : (s.modCell c closed).cell c = { s.cell c with state := .closed, level := 0 } := State.cell_modCell_self ..
  have hkept : CellsKept s (s.modCell c closed) [c] := fun d hd => State.cell_modCell_ne _ _ _ _ (by simpa using hd)
  have hpending := State.isPending_modCell s c closed fun _ => rfl
  by_cases hl : (s.cell c).level = 0
  · rw [show s.closeCell c = s.modCell c closed from if_pos hl]
    refine ⟨?_, hkept, ⟨rfl, rfl, rfl⟩, ?_, fun _ _ => rfl, ⟨rfl, rfl⟩, rfl⟩
    · unfold CellIs; rw [hc]
    · unfold levelNotices
      rw [hc, if_pos hl.symm]
      exact Delivers.refl rfl hpending
  · rw [show s.closeCell c = (s.modCell c closed).raiseLevel c from if_neg hl]
    have hlevel : (((s.modCell c closed).raiseLevel c).cell c).level = 0 := by
      rcases (s.modCell c closed).raiseLevel_cell c c with h | ⟨-, h⟩ <;> rw [h, hc]
    have howner : ((s.modCell c closed).cell c).owner = (s.cell c).owner := by rw [hc]
    obtain ⟨hquiet, hevents⟩ := still_raiseLevel (s.modCell c closed) c
    refine ⟨?_, fun d hd => ?_, ⟨State.raiseLevel_records .., State.raiseLevel_freeList .., State.raiseLevel_directory ..⟩, ?_,
      fun o ho => ?_, hevents, hquiet.1⟩
    · have h := (s.modCell c closed).raiseLevel_cellIs c
      rwa [hc] at h
    · rw [State.raiseLevel_cell_ne _ _ _ (by simpa using hd), hkept d hd]
    · unfold levelNotices
      rw [hlevel, if_neg (Ne.symm hl)]
      have h := (s.modCell c closed).raiseLevel_delivers c (s.cell c).owner howner.symm
      rw [hc] at h
      exact Delivers.congr (s := s.modCell c closed) rfl rfl (fun e => (hpending e).symm) (fun _ => Iff.rfl) h
    · rw [State.raiseLevel_port_ne _ _ _ (by simpa [howner] using ho)]
      rfl

/-- What the end of a job does (R140). -/
theorem State.endJob_effect {s w : State} (h : w.chosen = s.chosen) : ∃ v : State, v.job = none ∧ Chooses s v
    ∧ { v with job := w.job, chosen := w.chosen } = w ∧ v.ports = w.ports ∧ w.endJob = v.raiseEvent 256#10 :=
  ⟨State.chooseJob { w with job := none }, rfl, State.chooseJob_chooses h, rfl, rfl, rfl⟩

theorem State.completeCellDrain_effect (s : State) (c : CellIx) : ∃ w v : State,
    CellIs w c { s.cell c with state := .closed, level := 0 } ∧ CellsKept s w [c] ∧ StoreKept s w
    ∧ Delivers s w (s.cell c).owner (levelNotices s w c) ∧ PortsKept s w [(s.cell c).owner] ∧ EventsKept s w
    ∧ w.background = s.background ∧ v.job = none ∧ Chooses s v ∧ { v with job := w.job, chosen := w.chosen } = w
    ∧ s.completeCellDrain c = v.raiseEvent 256#10 := by
  obtain ⟨hcell, hcells, hstore, hlevel, hports, hevents, hback⟩ := s.closeCell_effect c
  obtain ⟨v, hjob, hchooses, hv, -, heq⟩ := State.endJob_effect (s := s) (congrArg Background.chosen hback)
  exact ⟨_, v, hcell, hcells, hstore, hlevel, hports, hevents, hback, hjob, hchooses, hv, heq⟩

theorem State.completePortDrain_effect (s : State) (p : PortIx) : ∃ v : State,
    v.port p = { s.port p with state := .down } ∧ PortsKept s v [p] ∧ v.job = none ∧ Chooses s v
    ∧ { v with ports := s.ports, job := s.job, chosen := s.chosen } = s ∧ s.completePortDrain p = v.raiseEvent 256#10 := by
  let down : Port → Port := fun q => { q with state := .down }
  obtain ⟨v, hjob, hchooses, hv, hports, heq⟩ := State.endJob_effect (s := s) (w := s.modPort p down) rfl
  have hport (o : PortIx) : v.port o = (s.modPort p down).port o := by unfold State.port; rw [hports]
  refine ⟨v, ?_, fun o ho => ?_, hjob, hchooses, ?_, heq⟩
  · rw [hport, State.port_modPort_self]
  · rw [hport, s.portsKept_modPort p down o ho]
  · exact congrArg (fun x : State => { x with ports := s.ports }) hv

/-- Settles O49, by whether the set of the job still holds a live record. -/
theorem drainsCompleteWhenNothingIsLeft : Obligations.DrainsCompleteWhenNothingIsLeft := by
  unfold Obligations.DrainsCompleteWhenNothingIsLeft
  refine ⟨fun s c _ => ⟨?_, fun hnone => ?_⟩, fun s p _ => ⟨?_, fun hnone => ?_⟩⟩
  · rintro ⟨i, ses, st, hl, hc⟩
    exact if_neg fun h => State.liveIn_isEmpty.1 h i ses st hl hc
  · have hsettle : s.settleCellDrain c = s.completeCellDrain c := if_pos (State.liveIn_isEmpty.2 hnone)
    obtain ⟨w, v, hcell, hcells, hstore, hlevel, hports, hevents, hback, hjob, hchooses, hv, heq⟩ := s.completeCellDrain_effect c
    refine ⟨w, v, hcell, hcells, hstore, hlevel, hports, hevents, hback, hjob, hchooses, hv, hsettle.trans heq,
      fun hdrain hnext => ?_⟩
    show execCellDrainStep s = _
    unfold execCellDrainStep
    simp only [hdrain, hnext, hsettle, heq]
  · rintro ⟨i, ses, st, hl, hc⟩
    exact if_neg fun h => State.portEmpty_iff.1 h i ses st hl hc
  · have hsettle : s.settlePortDrain p = s.completePortDrain p := if_pos (State.portEmpty_iff.2 hnone)
    obtain ⟨v, hport, hports, hjob, hchooses, hv, heq⟩ := s.completePortDrain_effect p
    refine ⟨v, hport, hports, hjob, hchooses, hv, hsettle.trans heq, fun hdrain hnext => ?_⟩
    show execPortDrainStep s = _
    unfold execPortDrainStep
    simp only [hdrain, hnext, hsettle, heq]

/-! ### The start and the step of a job -/

/-- The engine's next drain is the one it has chosen, or with no choice made the pending one of lowest number. -/
theorem State.nextJob_port {s : State} {p : PortIx} (h : s.chosen = some (.portDrain p) ∨ s.chosen = none
    ∧ (s.port p).drainFlag = true ∧ ∀ o : PortIx, o < p → (s.port o).drainFlag = false) : s.nextJob = some (.portDrain p) := by
  unfold State.nextJob
  rcases h with h | ⟨h, hp, ho⟩ <;> rw [h]
  · rfl
  · rw [Option.none_or]
    unfold State.firstPending
    rw [State.pendingPort_eq_some hp ho]

theorem State.nextJob_cell {s : State} {c : CellIx} (h : s.chosen = some (.cellDrain c) ∨ s.chosen = none
    ∧ (s.cell c).drainFlag = true ∧ (∀ o, (s.port o).drainFlag = false) ∧ ∀ d : CellIx, d < c → (s.cell d).drainFlag = false) :
    s.nextJob = some (.cellDrain c) := by
  unfold State.nextJob
  rcases h with h | ⟨h, hc, hp, hd⟩ <;> rw [h]
  · rfl
  · rw [Option.none_or]
    unfold State.firstPending
    rw [State.pendingPort_eq_none.2 hp, State.pendingCell_eq_some hc hd]
    rfl

theorem State.startDrain_of {s : State} {j : Job} (hidle : s.job = none) (h : s.nextJob = some j) :
    s.startDrain = s.startJob j := by
  unfold State.startDrain
  rw [hidle, h]

/-- The notice a cell drain raises about a record (R143). -/
theorem Stage.drainNotice_eq (st : Stage) :
    st.drainNotice = if st.isQueued = true ∨ st.isHeld = true then .expired else .forcedOut := by
  cases st <;> rfl

/-- What a drain does to the record it takes (R143, R148). -/
theorem State.drainRecord_effect {s x y : State} {i : Nat} {ses : Session} {st : Stage} (notify : Bool)
    (hl : s.liveAt i = some (ses, st))
    (hy : y = if notify then s.raiseSession i st.drainNotice .drained else s) (hx : x = y.giveUp i ses st) :
    RetiredFrom x (s.drainRecord notify i) i ses := by
  have hdrain : s.drainRecord notify i = x.retire i := by
    unfold State.drainRecord
    rw [hl, hx, hy]
  have hly : y.liveAt i = some (ses, st) := by
    rw [hy]
    split
    · rw [State.raiseSession_liveAt]; exact hl
    · exact hl
  obtain ⟨st', hlx⟩ := y.giveUp_live i ses st hly
  rw [hdrain]
  exact x.retire_retiredFrom i ses st' (hx ▸ hlx)

/-- The first answer along the numbers below n, where those before it give none. -/
theorem findSome?_finRange {n : Nat} {β : Type} (f : Fin n → Option β) {c : Fin n} {b : β} (h : f c = some b)
    (hbefore : ∀ d, d < c → f d = none) : (List.finRange n).findSome? f = some b := by
  rw [List.findSome?_eq_some_iff]
  have hc : c.val < (List.finRange n).length := by simp
  refine ⟨(List.finRange n).take c.val, c, (List.finRange n).drop (c.val + 1), ?_, h, fun d hd => hbefore d ?_⟩
  · have := List.take_append_drop c.val (List.finRange n)
    rw [List.drop_eq_getElem_cons hc] at this
    simpa using this.symm
  · obtain ⟨m, hm, rfl⟩ := List.mem_take_iff_getElem.1 hd
    rw [Fin.lt_def]
    simp at hm ⊢
    omega

theorem findSome?_filter {α β : Type} (q : α → Bool) (f : α → Option β) (l : List α) :
    (l.filter q).findSome? f = l.findSome? fun x => if q x then f x else none := by
  induction l with
  | nil => rfl
  | cons x l ih =>
    cases hx : q x <;> simp [List.findSome?_cons, hx, ih]

/-- The record a port drain takes next is the first of the first of its cells that holds one (R141). -/
theorem State.nextOfPort_eq {s : State} {p : PortIx} {c : CellIx} {i : Nat} (hc : (s.cell c).owner = p)
    (hi : s.nextToDrain c = some i) (hbefore : ∀ d : CellIx, d < c → (s.cell d).owner = p → s.nextToDrain d = none) :
    s.nextOfPort p = some i := by
  unfold State.nextOfPort State.cellsOf
  rw [findSome?_filter]
  refine findSome?_finRange _ (c := c) ?_ fun d hd => ?_
  · simpa [hc] using hi
  · by_cases ho : (s.cell d).owner = p
    · simpa [ho] using hbefore d hd ho
    · simp [ho]

/-- Settles O50, by the engine's choice for the start and the stage of the record for the step. -/
theorem drainJobsStartAndStep : Obligations.DrainJobsStartAndStep := by
  unfold Obligations.DrainJobsStartAndStep
  refine ⟨⟨fun s p hidle h => ?_, fun s c hidle h => ?_⟩, fun s x i ses st hl => ⟨fun hx => ?_, fun hx => ?_⟩,
    fun s c i hjob hi => ?_, fun s p c i hjob hc hi hbefore => ?_⟩
  · have hstart := State.startDrain_of hidle (State.nextJob_port h)
    let cleared : Port → Port := fun q => { q with drainFlag := false }
    exact ⟨{ s.modPort p cleared with job := some (.portDrain p), chosen := none }, congrArg Host.Outcome.next hstart,
      s.port_modPort_self p cleared, s.portsKept_modPort p cleared, rfl, rfl, rfl⟩
  · have hstart := State.startDrain_of hidle (State.nextJob_cell h)
    let cleared : Cell → Cell := fun k => { k with drainFlag := false }
    exact ⟨{ s.modCell c cleared with job := some (.cellDrain c), chosen := none }, congrArg Host.Outcome.next hstart,
      s.cell_modCell_self c cleared, fun d hd => s.cell_modCell_ne c d cleared (by simpa using hd), rfl, rfl, rfl⟩
  · exact State.drainRecord_effect true hl (by rw [if_pos rfl, st.drainNotice_eq]) hx
  · exact State.drainRecord_effect false hl (by simp) hx
  · show execCellDrainStep s = _
    unfold execCellDrainStep
    simp only [hjob, hi]
  · show execPortDrainStep s = _
    unfold execPortDrainStep
    simp only [hjob, State.nextOfPort_eq hc hi hbefore]

end Sys2Proof.Machine
end

section
/-! Proofs of the statements about the management port: transactions, read accesses, the writes that no other row names, and
the settings of a port (chapters 9 and 11). -/

namespace Sys2Proof.Machine

/-! ### Transactions -/

/-- Settles O51, by the definition of the three commands. -/
theorem transactionsBeginAndEnd : Obligations.TransactionsBeginAndEnd := by
  unfold Obligations.TransactionsBeginAndEnd
  refine ⟨fun s command a => ⟨_, rfl, rfl, fun hread hwrite => ?_, rfl⟩, fun s => ⟨_, rfl, rfl, rfl⟩, fun s hw => ?_⟩
  · have hnone : directionOf command = .noAccess := by rw [directionOf, if_neg hread, if_neg hwrite]
    exact if_pos hnone
  · have hf : s.writeField = some (.tableControl, .whole) := (State.writeField_of hw).trans (by decide)
    show execOpenTable s = _
    unfold execOpenTable
    rw [hf]
    exact congrArg Host.Outcome.next (State.advance_past (s := s) hw rfl)

/-! ### Read accesses -/

theorem upperByte_eq (v : Half) : upperByte v = v.extractLsb' 8 8 := by
  refine BitVec.eq_of_toNat_eq ?_
  simp [upperByte, BitVec.extractLsb'_toNat, Nat.shiftRight_eq_div_pow]

theorem lowerByte_eq (v : Half) : lowerByte v = v.setWidth 8 := by
  refine BitVec.eq_of_toNat_eq ?_
  simp [lowerByte]

/-- The bits that the layouts list read as the field's value (R175; log entry 3). -/
theorem State.readField_bit (s : State) {f : Field} {k : Nat} (hk : k < 16) (hf : f.unlisted.getLsbD k = false) :
    (s.readField f).getLsbD k = (s.fieldValue f).testBit k := by
  rw [State.readField, BitVec.getLsbD_or, BitVec.getLsbD_and, hf, Bool.and_false, Bool.or_false, BitVec.getLsbD_ofNat]
  simp [hk]

theorem State.readField_mod (s : State) {f : Field} {bits : Nat} (hb : bits ≤ 16) (hf : f.unlisted.toNat % 2 ^ bits = 0) :
    (s.readField f).toNat % 2 ^ bits = s.fieldValue f % 2 ^ bits := by
  refine Nat.eq_of_testBit_eq fun k => ?_
  rw [Nat.testBit_mod_two_pow, Nat.testBit_mod_two_pow]
  by_cases hk : k < bits
  · have hclear : f.unlisted.getLsbD k = false := by
      have h := Nat.testBit_mod_two_pow f.unlisted.toNat bits k
      rw [hf, Nat.zero_testBit] at h
      simpa [BitVec.getLsbD, hk] using h.symm
    simpa [BitVec.getLsbD, hk] using s.readField_bit (by omega) hclear
  · simp [hk]

/-- What a read access answers (R175, R176). -/
theorem State.exec_highByteRead {s : State} {a : BitVec 16} (h : s.transaction = some (Transaction.mk .read a)) :
    exec .highByteRead s = .next { s with
      dataOut := some (s.readAt a).1
      capture := (s.readAt a).2
      freeDraws := s.freeDraws + 1
      transaction := some (Transaction.mk .read (a + 1)) } := by
  show execHighByteRead s = _
  unfold execHighByteRead State.advance
  simp [h]

theorem State.readAt_none {s : State} {a : BitVec 16} (h : locate a = none) : s.readAt a = (0, s.capture) := by
  unfold State.readAt
  rw [h]

theorem State.readAt_whole {s : State} {a : BitVec 16} {f : Field} (h : locate a = some (f, .whole)) :
    s.readAt a = (lowerByte (s.readField f), s.capture) := by
  unfold State.readAt
  rw [h]

theorem State.readAt_high {s : State} {a : BitVec 16} {f : Field} (h : locate a = some (f, .high)) :
    s.readAt a = (upperByte (s.readField f), Capture.mk (s.readField f) (some f)) := by
  unfold State.readAt
  rw [h]

theorem State.readAt_low {s : State} {a : BitVec 16} {f : Field} (h : locate a = some (f, .low)) :
    s.readAt a
      = (if s.capture.field = some f then lowerByte s.capture.value else lowerByte (s.readField f), s.capture) := by
  unfold State.readAt
  rw [h]
  dsimp only
  split <;> rfl

/-! ### What each address reads as -/

theorem State.readsByte_of {s : State} {a bits v : Nat} {f : Field} (ha : locate (BitVec.ofNat 16 a) = some (f, .whole))
    (hb : bits ≤ 8) (hf : f.unlisted.toNat % 2 ^ bits = 0) (hv : s.fieldValue f = v) : s.readsByte a bits v := by
  refine ⟨_, _, State.exec_highByteRead (s := s.readingAt a) rfl, rfl, ?_⟩
  rw [State.readAt_whole ha]
  have h := s.readField_mod (by omega : bits ≤ 16) hf
  show (BitVec.ofNat 8 (s.readField f).toNat).toNat % 2 ^ bits = v % 2 ^ bits
  rw [← hv, ← h, BitVec.toNat_ofNat]
  exact Nat.mod_mod_of_dvd _ (Nat.pow_dvd_pow 2 hb)

theorem State.readsHalf_of {s : State} {a bits v : Nat} {f : Field} (hhigh : locate (BitVec.ofNat 16 a) = some (f, .high))
    (hlow : locate (BitVec.ofNat 16 (a + 1)) = some (f, .low)) (hb : bits ≤ 16) (hf : f.unlisted.toNat % 2 ^ bits = 0)
    (hv : s.fieldValue f = v) : s.readsHalf a bits v := by
  have hnext : BitVec.ofNat 16 a + 1 = BitVec.ofNat 16 (a + 1) := by rw [BitVec.ofNat_add]; rfl
  refine ⟨_, _, _, _, State.exec_highByteRead (s := s.readingAt a) rfl, rfl, State.exec_highByteRead rfl, rfl, ?_⟩
  rw [hnext, State.readAt_low hlow, State.readAt_high hhigh, if_pos rfl]
  have h := s.readField_mod hb hf
  have hlt := (s.readField f).isLt
  show ((BitVec.ofNat 8 ((s.readField f).toNat / 256)).toNat * 256 + (BitVec.ofNat 8 (s.readField f).toNat).toNat) % 2 ^ bits = _
  rw [← hv, ← h, BitVec.toNat_ofNat, BitVec.toNat_ofNat]
  congr 1
  omega

/-! ### The addresses of 11.1 -/

theorem State.readsByte_port {s : State} {p : PortIx} {o bits v : Nat} {f : Field} (ho : o < 6)
    (h : locatePort p o = some (f, .whole)) (hb : bits ≤ 8) (hf : f.unlisted.toNat % 2 ^ bits = 0) (hv : s.fieldValue f = v) :
    s.readsByte (0x30 + o + 6 * p.val) bits v :=
  State.readsByte_of ((locate_port p o ho).trans h) hb hf hv

theorem State.readsByte_cell {s : State} {c : CellIx} {o v : Nat} {f : Field} (ho : o < 32)
    (h : locateCell c o = some (f, .whole)) (hf : f.unlisted = 0) (hv : s.fieldValue f = v) :
    s.readsByte (0x100 + o + 32 * c.val) 8 v :=
  State.readsByte_of ((locate_cell c o ho).trans h) (by omega) (by rw [hf]; rfl) hv

theorem State.readsHalf_cell {s : State} {c : CellIx} {o v : Nat} {f : Field} (ho : o + 1 < 32)
    (hhigh : locateCell c o = some (f, .high)) (hlow : locateCell c (o + 1) = some (f, .low)) (hf : f.unlisted = 0)
    (hv : s.fieldValue f = v) : s.readsHalf (0x100 + o + 32 * c.val) 16 v := by
  refine State.readsHalf_of ((locate_cell c o (by omega)).trans hhigh) ?_ le_rfl (by rw [hf]; rfl) hv
  rw [show 0x100 + o + 32 * c.val + 1 = 0x100 + (o + 1) + 32 * c.val by omega]
  exact (locate_cell c (o + 1) ho).trans hlow

theorem State.readsByte_class {s : State} {k : ClassIx} {o bits v : Nat} {f : Field} (ho : o < 16)
    (h : locateClass k o = some (f, .whole)) (hb : bits ≤ 8) (hf : f.unlisted.toNat % 2 ^ bits = 0) (hv : s.fieldValue f = v) :
    s.readsByte (0x400 + o + 16 * k.val) bits v := by
  refine State.readsByte_of (f := f) ?_ hb hf hv
  rw [show 0x400 + o + 16 * k.val = 0x400 + 16 * k.val + o by omega]
  exact (locate_class k o ho).trans h

theorem State.readsHalf_class {s : State} {k : ClassIx} {o v : Nat} {f : Field} (ho : o + 1 < 16)
    (hhigh : locateClass k o = some (f, .high)) (hlow : locateClass k (o + 1) = some (f, .low)) (hf : f.unlisted = 0)
    (hv : s.fieldValue f = v) : s.readsHalf (0x400 + o + 16 * k.val) 16 v := by
  refine State.readsHalf_of (f := f) ?_ ?_ le_rfl (by rw [hf]; rfl) hv
  · rw [show 0x400 + o + 16 * k.val = 0x400 + 16 * k.val + o by omega]
    exact (locate_class k o (by omega)).trans hhigh
  · rw [show 0x400 + o + 16 * k.val + 1 = 0x400 + 16 * k.val + (o + 1) by omega]
    exact (locate_class k (o + 1) ho).trans hlow

/-- The drain busy bit of the table status (R139). -/
theorem State.drainBusy_iff {s : State} :
    s.drainBusy = true ↔ s.job ≠ none ∨ (∃ p, (s.port p).drainFlag = true) ∨ ∃ c, (s.cell c).drainFlag = true := by
  have hport : s.pendingPort.isSome = true ↔ ∃ p, (s.port p).drainFlag = true := by
    rw [Option.isSome_iff_ne_none, ne_eq, State.pendingPort_eq_none]
    simp
  have hcell : s.pendingCell.isSome = true ↔ ∃ c, (s.cell c).drainFlag = true := by
    rw [Option.isSome_iff_ne_none, ne_eq, State.pendingCell_eq_none]
    simp
  rw [State.drainBusy, Bool.or_eq_true, Bool.or_eq_true, hport, hcell, or_assoc, Option.isSome_iff_ne_none]

/-- The fields below the ports read as 11.1 lays them out. -/
theorem State.globals_read (s : State) : s.globalsRead := by
  refine ⟨State.readsByte_of (f := .vendorCode) rfl le_rfl rfl rfl,
    State.readsHalf_of (f := .partCode) rfl rfl le_rfl rfl rfl, State.readsByte_of (f := .revision) rfl le_rfl rfl rfl,
    fun busy hbusy => State.readsByte_of (f := .tableStatus) rfl (by omega) rfl ?_,
    State.readsHalf_of (f := .freeCount) rfl rfl le_rfl rfl rfl,
    State.readsHalf_of (f := .queuedCount) rfl rfl le_rfl rfl s.poolCount_eq,
    State.readsHalf_of (f := .eventRaw) rfl rfl (by omega) rfl rfl,
    State.readsHalf_of (f := .eventEnable) rfl rfl (by omega) rfl rfl,
    State.readsHalf_of (f := .agingWeight) rfl rfl le_rfl rfl rfl,
    State.readsHalf_of (f := .supervision) rfl rfl le_rfl rfl rfl⟩
  have hb : s.drainBusy = busy := Bool.eq_iff_iff.2 (State.drainBusy_iff.trans hbusy.symm)
  rw [← hb]
  rfl

/-- A size code of 0 to 3 is that of its ring size (R162). -/
theorem ringCode_pow {code : Nat} (h : code ≤ 3) : ringCode (64 * 2 ^ code) = code := by
  interval_cases code <;> rfl

theorem State.port_reads (s : State) (p : PortIx) : s.portReads p := by
  refine ⟨fun code hcode hsize => State.readsByte_port (o := 0) (f := .ringSize p) (by omega) rfl le_rfl rfl ?_,
    State.readsByte_port (o := 1) (f := .attention p) (by omega) rfl (by omega) (show (0x00F8#16).toNat % 2 ^ 3 = 0 by decide) rfl,
    State.readsByte_port (o := 2) (f := .pulseWidth p) (by omega) rfl le_rfl rfl rfl,
    State.readsByte_port (o := 3) (f := .portState p) (by omega) rfl le_rfl rfl ?_,
    State.readsHalf_of (f := .errorCount p) (locate_port p 4 (by omega)) ?_ le_rfl rfl rfl⟩
  · rw [← ringCode_pow hcode, ← hsize]
    rfl
  · show (s.port p).state.code = _
    cases (s.port p).state <;> rfl
  · rw [show 0x34 + 6 * p.val + 1 = 0x30 + 5 + 6 * p.val by omega]
    exact locate_port p 5 (by omega)

theorem State.cell_reads (s : State) (c : CellIx) : s.cellReads c := by
  refine ⟨State.readsByte_cell (o := 0x00) (f := .cellState c) (by omega) rfl rfl ?_,
    State.readsByte_cell (o := 0x01) (f := .owner c) (by omega) rfl rfl rfl,
    State.readsHalf_cell (o := 0x02) (f := .capacity c) (by omega) rfl rfl rfl rfl,
    State.readsHalf_cell (o := 0x04) (f := .floor c) (by omega) rfl rfl rfl rfl,
    State.readsHalf_cell (o := 0x06) (f := .threshold1 c) (by omega) rfl rfl rfl rfl,
    State.readsHalf_cell (o := 0x08) (f := .threshold2 c) (by omega) rfl rfl rfl rfl,
    State.readsHalf_cell (o := 0x0A) (f := .threshold3 c) (by omega) rfl rfl rfl rfl,
    State.readsByte_cell (o := 0x0C) (f := .hysteresis c) (by omega) rfl rfl rfl,
    State.readsByte_cell (o := 0x0D) (f := .depthLimit c) (by omega) rfl rfl rfl,
    State.readsHalf_cell (o := 0x0E) (f := .countA c) (by omega) rfl rfl rfl rfl,
    State.readsHalf_cell (o := 0x10) (f := .countC c) (by omega) rfl rfl rfl rfl,
    State.readsHalf_cell (o := 0x12) (f := .countR c) (by omega) rfl rfl rfl rfl,
    State.readsHalf_cell (o := 0x14) (f := .occupancy c) (by omega) rfl rfl rfl rfl,
    State.readsByte_cell (o := 0x16) (f := .level c) (by omega) rfl rfl rfl,
    State.readsByte_cell (o := 0x17) (f := .queueDepth c) (by omega) rfl rfl rfl,
    State.readsByte_cell (o := 0x19) (f := .commandResult c) (by omega) rfl rfl rfl⟩
  show (s.cell c).state.code = _
  cases (s.cell c).state <;> rfl

theorem State.class_reads (s : State) (k : ClassIx) : s.classReads k :=
  ⟨State.readsByte_class (o := 0) (f := .classLevel k) (by omega) rfl le_rfl rfl rfl,
    State.readsByte_class (o := 1) (f := .classFlags k) (by omega) rfl (by omega) (show (0x00F0#16).toNat % 2 ^ 4 = 0 by decide) rfl,
    State.readsByte_class (o := 2) (f := .classBoost k) (by omega) rfl le_rfl rfl rfl,
    State.readsByte_class (o := 3) (f := .classRefuse k) (by omega) rfl le_rfl rfl rfl,
    State.readsHalf_class (o := 4) (f := .classGuard k) (by omega) rfl rfl rfl rfl,
    State.readsHalf_class (o := 6) (f := .classGrace k) (by omega) rfl rfl rfl rfl,
    State.readsHalf_class (o := 8) (f := .classMaxWait k) (by omega) rfl rfl rfl rfl⟩

/-- The bytes of a cell's block past its last field name no field (11.1). -/
theorem locateCell_none (c : CellIx) {o : Nat} (h : 0x1A ≤ o) : locateCell c o = none := by
  obtain ⟨n, rfl⟩ := Nat.exists_eq_add_of_le' h
  rfl

theorem locateClass_none (k : ClassIx) {o : Nat} (h : 0xA ≤ o) : locateClass k o = none := by
  obtain ⟨n, rfl⟩ := Nat.exists_eq_add_of_le' h
  rfl

theorem locateGlobal_none {n : Nat} (h : 4 ≤ n ∧ n ≤ 0xF ∨ n = 0x16 ∨ n = 0x17 ∨ 0x1C ≤ n ∧ n ≤ 0x1F ∨ 0x24 ≤ n) :
    locateGlobal n = none := by
  unfold locateGlobal
  split <;> first | rfl | omega

/-- An address at which 11.1 lists no field names none. -/
theorem locate_none {a : Nat} (h : namesNoField a) : locate (BitVec.ofNat 16 a) = none := by
  obtain ⟨hlt, h⟩ := h
  unfold locate
  rw [show (BitVec.ofNat 16 a).toNat = a by simp; omega]
  dsimp only
  split
  · exact locateGlobal_none (by omega)
  split
  · omega
  split
  · exact locateCell_none _ (by omega)
  split
  · exact locateClass_none _ (by omega)
  · rfl

/-- Settles O52, by the part of the field that the address names. -/
theorem readsReturnAndCaptureTheField : Obligations.ReadsReturnAndCaptureTheField := by
  unfold Obligations.ReadsReturnAndCaptureTheField
  refine ⟨fun s a h => ⟨_, s.readField, State.exec_highByteRead h, fun f k hk hf => s.readField_bit hk hf, fun hl => ?_,
    fun f hl => ?_, fun f hl => ?_, fun f hl => ?_, rfl, rfl⟩,
    fun s => ⟨s.globals_read, s.port_reads, s.cell_reads, s.class_reads, fun a ha => ?_⟩⟩
  · rw [State.readAt_none hl]
    exact ⟨rfl, rfl⟩
  · rw [State.readAt_whole hl, lowerByte_eq]
    exact ⟨rfl, rfl⟩
  · rw [State.readAt_high hl, upperByte_eq]
    exact ⟨rfl, rfl⟩
  · rw [State.readAt_low hl, lowerByte_eq, lowerByte_eq]
    exact ⟨rfl, rfl⟩
  · refine ⟨_, _, State.exec_highByteRead (s := s.readingAt a) rfl, rfl, ?_⟩
    rw [State.readAt_none (locate_none ha)]
    rfl

/-! ### Writes that no other row names -/

theorem State.storePart_transaction (s : State) (f : Field) (part : Part) (b : Byte) :
    (s.storePart f part b).transaction = s.transaction := by
  cases part with
  | whole => cases f <;> rfl
  | high => cases f <;> rfl
  | low => cases f <;> rfl

/-- What a write access that no other row names does (R175, R176). -/
theorem State.exec_registerWrite {s : State} {a : Nat} {b : Byte} {f : Field} {part : Part} (h : s.writesAt a)
    (ha : locate (BitVec.ofNat 16 a) = some (f, part)) (hrow : f.hasOwnRow part b = false) :
    exec (.registerWrite b) s = .next ((s.storePart f part b).pastWrite a) := by
  show execRegisterWrite b s = _
  unfold execRegisterWrite
  rw [State.writeAddress_of h]
  dsimp only
  rw [ha]
  dsimp only
  rw [hrow, if_neg Bool.false_ne_true]
  exact congrArg Host.Outcome.next (State.advance_past h (s.storePart_transaction f part b))

/-- A write access at an address that names no field is ignored (R175). -/
theorem State.exec_registerWrite_none {s : State} {a : Nat} {b : Byte} (h : s.writesAt a)
    (ha : locate (BitVec.ofNat 16 a) = none) : exec (.registerWrite b) s = .next (s.pastWrite a) := by
  show execRegisterWrite b s = _
  unfold execRegisterWrite
  rw [State.writeAddress_of h]
  dsimp only
  rw [ha]
  exact congrArg Host.Outcome.next (State.advance_past (s := s) h rfl)

/-- A field that 11.1 marks read: it has no row of its own, and a byte to any part of it stores nothing. -/
def Field.readOnly (f : Field) : Bool :=
  match f with
  | .vendorCode | .partCode | .revision | .tableStatus | .freeCount | .queuedCount => true
  | .portState _ | .errorCount _ => true
  | .cellState _ | .countA _ | .countC _ | .countR _ | .occupancy _ | .level _ | .queueDepth _ | .commandResult _ => true
  | _ => false

theorem Field.hasOwnRow_readOnly {f : Field} (h : f.readOnly = true) (part : Part) (b : Byte) : f.hasOwnRow part b = false := by
  cases f <;> simp [Field.readOnly, Field.hasOwnRow] at h ⊢

theorem State.storePart_readOnly (s : State) {f : Field} (h : f.readOnly = true) (part : Part) (b : Byte) :
    s.storePart f part b = s := by
  cases f <;> simp [Field.readOnly] at h <;> cases part <;> rfl

/-- The addresses that 11.1 marks read name its read fields. -/
theorem locate_readOnly {a : Nat} (h : isReadOnly a) :
    ∃ f part, locate (BitVec.ofNat 16 a) = some (f, part) ∧ f.readOnly = true := by
  rcases h with h | ⟨p, o, ho, rfl⟩ | ⟨c, o, ho, rfl⟩
  · simp only [List.mem_cons, List.not_mem_nil, or_false] at h
    rcases h with rfl | rfl | rfl | rfl | rfl | rfl | rfl | rfl | rfl <;> exact ⟨_, _, rfl, rfl⟩
  · simp only [List.mem_cons, List.not_mem_nil, or_false] at ho
    rw [locate_port p o (by omega)]
    rcases ho with rfl | rfl | rfl <;> exact ⟨_, _, rfl, rfl⟩
  · rw [locate_cell c o (by omega)]
    have hlt : o < 0x1A := by omega
    interval_cases o <;> first | exact ⟨_, _, rfl, rfl⟩ | omega

theorem Field.hasOwnRow_high {f : Field} (h : f.writableHalf = true) (b : Byte) : f.hasOwnRow .high b = false := by
  cases f <;> simp [Field.writableHalf, Field.hasOwnRow] at h ⊢

/-- The write of a class field changes the entry of that class alone. -/
theorem State.modClass_effect (s : State) (k : ClassIx) (f : ServiceClass → ServiceClass) :
    (∀ o, o ≠ k → (s.modClass k f).classAt o = s.classAt o) ∧ { s.modClass k f with classes := s.classes } = s
    ∧ (s.modClass k f).classAt k = f (s.classAt k) := by
  refine ⟨fun o ho => ?_, rfl, ?_⟩
  · show (s.classes.set k (f s.classes[k]))[o] = s.classes[o]
    exact Vector.getElem_set_ne _ _ fun h => ho (Fin.ext h.symm)
  · exact Vector.getElem_set_self _

/-- A write of a class field takes effect on the entry of its class (R32, R176). -/
theorem State.exec_classWrite {s : State} {k : ClassIx} {o : Nat} {b : Byte} {f : Field} {part : Part}
    {e : ServiceClass} (h : s.writesAt (0x400 + 16 * k.val + o)) (ho : o < 16) (hloc : locateClass k o = some (f, part))
    (hrow : f.hasOwnRow part b = false) (hstore : s.storePart f part b = s.modClass k fun _ => e) : ∃ w : State,
    exec (.registerWrite b) s = .next (w.pastWrite (0x400 + 16 * k.val + o)) ∧ (∀ o, o ≠ k → w.classAt o = s.classAt o)
    ∧ { w with classes := s.classes } = s ∧ w.classAt k = e := by
  obtain ⟨hne, hrest, hself⟩ := s.modClass_effect k fun _ => e
  exact ⟨_, by rw [State.exec_registerWrite h ((locate_class k o ho).trans hloc) hrow, hstore], hne, hrest, hself⟩

/-- Settles O53, by the field each address names. -/
theorem plainWritesStoreTheirFields : Obligations.PlainWritesStoreTheirFields := by
  unfold Obligations.PlainWritesStoreTheirFields
  intro s b c k f
  refine ⟨fun a hw ha hf => ?_, fun a hw h => ?_, fun hw h1 h2 => ?_, fun hw h => ?_, fun hw => ?_, fun o ho hw => ?_⟩
  · rw [State.exec_registerWrite hw ha (Field.hasOwnRow_high hf b), State.storePart, if_pos hf]
  · rcases h with h | h | h
    · exact State.exec_registerWrite_none hw h
    · exact State.exec_registerWrite_none hw (locate_none h)
    · obtain ⟨g, part, ha, hg⟩ := locate_readOnly h
      rw [State.exec_registerWrite hw ha (Field.hasOwnRow_readOnly hg part b), s.storePart_readOnly hg part b]
  · exact State.exec_registerWrite (f := .tableControl) (part := .whole) hw rfl (by simp [Field.hasOwnRow, h1, h2])
  · refine State.exec_registerWrite (f := .cellCommand c) (part := .whole) hw (locate_cell c 0x18 (by omega)) ?_
    rcases h with rfl | h
    · rfl
    · simp [Field.hasOwnRow]
      omega
  · let stored : Cell → Cell := fun k => { k with hysteresis := b.toNat }
    exact ⟨s.modCell c stored,
      State.exec_registerWrite (f := .hysteresis c) (part := .whole) hw (locate_cell c 0x0C (by omega)) rfl,
      s.cell_modCell_self c stored, fun d hd => s.cell_modCell_ne c d stored (by simpa using hd), rfl⟩
  · simp only [List.mem_cons, List.not_mem_nil, or_false] at ho
    rcases ho with rfl | rfl | rfl | rfl | rfl | rfl | rfl
    all_goals exact State.exec_classWrite hw (by omega) rfl rfl rfl

/-! ### The settings of a port -/

/-- A write of a port field that has a row of its own changes that port alone. -/
theorem State.portWrite_effect {s : State} {a : Nat} (hw : s.writesAt a) (p : PortIx) (f : Port → Port) :
    (s.modPort p f).advance = (s.modPort p f).pastWrite a ∧ PortsKept s (s.modPort p f) [p]
    ∧ { s.modPort p f with ports := s.ports } = s ∧ (s.modPort p f).port p = f (s.port p) :=
  ⟨State.advance_past hw rfl, s.portsKept_modPort p f, rfl, s.port_modPort_self p f⟩

theorem Port.takeMode_enabled {q : Port} (h : q.attnEnable = true) (b : Byte) : q.takeMode b = q := if_pos h

theorem Port.takeMode_clear {q : Port} (h : q.attnEnable = false) (b : Byte) :
    q.takeMode b = { q with attnPulse := b.getLsbD 1, attnActiveLow := b.getLsbD 2 } := if_neg (by simp [h])

/-- Settles O60, by the enable the port has and the one the byte brings. -/
theorem portWritesTakeTheirSettings : Obligations.PortWritesTakeTheirSettings := by
  unfold Obligations.PortWritesTakeTheirSettings
  rintro s b p q rfl
  refine ⟨fun hw => ?_, fun hw => ?_, fun hw => ?_⟩
  · have hf : s.writeField = some (.attention p, .whole) := (State.writeField_of hw).trans (locate_port p 1 (by omega))
    obtain ⟨hpast, hkept, hrest, hport⟩ := State.portWrite_effect hw p fun q => q.writeAttention s.tick b
    refine ⟨_, ?_, hkept, hrest, fun hen => ?_, fun hen hb => ?_, fun hen hb => ?_⟩
    · show execAttentionWrite b s = _
      unfold execAttentionWrite
      rw [hf]
      exact congrArg Host.Outcome.next hpast
    · rw [hport, Port.writeAttention_eq, Port.takeMode_enabled hen, Port.writeEnable, hen]
      cases b.getLsbD 0 <;> rfl
    · rw [hport, Port.writeAttention_eq, Port.takeMode_clear hen, Port.writeEnable, hb]
      exact if_pos hen.symm
    · rw [hport, Port.writeAttention_eq, Port.takeMode_clear hen, Port.writeEnable, hb]
      rw [if_neg (by simp [hen]), if_pos rfl]
  · have hf : s.writeField = some (.pulseWidth p, .whole) := (State.writeField_of hw).trans (locate_port p 2 (by omega))
    obtain ⟨hpast, hkept, hrest, hport⟩ := State.portWrite_effect hw p fun q => q.writePulseWidth b
    refine ⟨_, ?_, hkept, hrest, hport⟩
    show execAttentionWrite b s = _
    unfold execAttentionWrite
    rw [hf]
    exact congrArg Host.Outcome.next hpast
  · have hf : s.writeField = some (.ringSize p, .whole) := (State.writeField_of hw).trans (locate_port p 0 (by omega))
    obtain ⟨hpast, hkept, hrest, hport⟩ := State.portWrite_effect hw p fun q => q.writeRingSize b
    refine ⟨_, ?_, hkept, hrest, ?_⟩
    · show execRingSizeWrite b s = _
      unfold execRingSizeWrite
      rw [hf]
      exact congrArg Host.Outcome.next hpast
    · rw [hport, Port.writeRingSize, show (2 : Nat) ^ (6 + b.toNat) = 64 * 2 ^ b.toNat from pow_add 2 6 b.toNat]

end Sys2Proof.Machine
end

section
/-! Proofs of the statements about Table Reset, the cell commands, and the writes of a cell's capacity, floor and thresholds
(chapters 2, 7, 8 and 11). -/

namespace Sys2Proof.Machine

/-! ### Table Reset -/

/-- A recompute from level 0 ends at the level reached (R129, R132). -/
theorem Cell.nextLevel_zero (k : Cell) (o : Nat) (h : k.level = 0) : k.nextLevel o = k.reached o := by
  unfold Cell.nextLevel
  rw [h]
  split
  · rfl
  · next h0 => exact (Nat.eq_zero_of_not_pos h0).symm

/-- With thresholds in their ranges, an occupancy of 1000 has reached level 3, and one of 0 no level. -/
theorem Cell.reached_ends {k : Cell} (h : k.inRange) : k.reached 1000 = 3 ∧ k.reached 0 = 0 := by
  obtain ⟨-, -, h1, h2, h3, -⟩ := h
  have ht2 : k.t2InUse = max k.t2 k.t1 := rfl
  have ht3 : k.t3InUse = max k.t3 k.t2InUse := rfl
  unfold Cell.reached
  constructor
  · rw [if_pos (by omega)]
  · rw [if_neg (by omega), if_neg (by omega), if_neg (by omega)]

theorem Cell.emptied_inRange {k : Cell} (h : k.inRange) : k.emptied.inRange := h

/-- The level of a cell after a Table Reset (R131, R132). -/
theorem Cell.emptied_level {k : Cell} (h : k.inRange) : k.emptied.recomputed.level
    = if k.capacity = 0 ∧ (k.state = .opened ∨ k.state = .barred) then 3 else 0 := by
  obtain ⟨hfull, hfree⟩ := Cell.reached_ends (Cell.emptied_inRange h)
  have hlevel : k.emptied.recomputed.level = if (if k.state = .draining then .closed else k.state) = .closed then 0
      else k.emptied.reached (occupancyOf k.capacity 0) := by
    rw [← Cell.nextLevel_zero _ _ rfl]
    rfl
  rw [hlevel, occupancyOf_eq]
  by_cases h0 : k.capacity = 0
  · cases hs : k.state <;> simp [h0, hfull]
  · cases hs : k.state <;> simp [h0, hfree]

/-- Settles O54, by what the reset leaves of each record, cell and port. -/
theorem tableResetEmptiesTheTable : Obligations.TableResetEmptiesTheTable := by
  unfold Obligations.TableResetEmptiesTheTable
  intro s hw hs
  refine ⟨s.resetTable, ?_, rfl, rfl, State.chooseJob_chooses (s := { s with chosen := none }) rfl, s.freeList_resetTable,
    s.findKey_resetTable, fun i => ?_, fun c => ?_, fun c hrange => ?_, fun p => s.port_resetTable p, rfl⟩
  · have hf : s.writeField = some (.tableControl, .whole) := (State.writeField_of hw).trans (by decide)
    show execTableReset s = _
    unfold execTableReset
    rw [hf]
    exact congrArg Host.Outcome.next (State.advance_past hw rfl)
  · rw [State.record_resetTable hs]
    unfold Record.afterReset
    cases (s.record i).life <;> rfl
  · rw [State.cell_resetTable]
    have hocc : occupancyOf (s.cell c).capacity 0 = if (s.cell c).capacity = 0 then 1000 else 0 := by
      rw [occupancyOf_eq]
      simp
    rw [← hocc]
    rfl
  · rw [State.cell_resetTable]
    exact Cell.emptied_level (hrange.1 c)

/-! ### A cell rewritten and recomputed -/

/-- What a write of a cell's entry with the recompute behind it does (R128, R136). -/
theorem State.recompute_rewritten {s : State} {c : CellIx} {f : Cell → Cell} {k n : Cell} (hk : k = s.cell c) (hn : f k = n)
    (hpending : ∀ k, (f k).pendingLevel = k.pendingLevel) (hlevel : n.level = k.level) (howner : n.owner = k.owner) {w : State}
    (hw : w = (s.modCell c f).recompute c) :
    StoreKept s w ∧ CellIs w c n.recomputed ∧ CellsKept s w [c] ∧ Delivers s w k.owner (levelNotices s w c)
    ∧ PortsKept s w [k.owner] ∧ w.background = s.background ∧ EventsKept s w := by
  have hc : (s.modCell c f).cell c = n := by rw [State.cell_modCell_self, ← hk, hn]
  obtain ⟨hcell, hcells, hlevels, hports, hquiet, hevents⟩ := (s.modCell c f).recompute_recounted c
  rw [hc, howner] at hlevels hports
  rw [hc] at hcell
  subst hw
  refine ⟨s.storeKept_recompute_modCell c f, hcell, fun d hd => ?_, ?_, hports, hquiet.1, hevents⟩
  · rw [hcells d hd, State.cell_modCell_ne _ _ _ _ (by simpa using hd)]
  · have hsame : levelNotices s ((s.modCell c f).recompute c) c = levelNotices (s.modCell c f) ((s.modCell c f).recompute c) c := by
      unfold levelNotices
      rw [hc, hlevel, hk]
    rw [hsame]
    exact Delivers.congr (s := s.modCell c f) rfl rfl (fun e => (State.isPending_modCell s c f hpending e).symm)
      (fun _ => Iff.rfl) hlevels

theorem State.recompute_modCell_transaction (s : State) (c d : CellIx) (f : Cell → Cell) :
    ((s.modCell c f).recompute d).transaction = s.transaction :=
  Quiet.transaction (s := s.modCell c f) (still_recompute (s.modCell c f) d).1

/-! ### Cell commands -/

theorem State.writeField_command {s : State} {c : CellIx} (h : s.writesAt (0x118 + 32 * c.val)) :
    s.writeField = some (.cellCommand c, .whole) :=
  (State.writeField_of h).trans (locate_cell c 0x18 (by omega))

/-- Settles O55, by the state of the cell each command is given in. -/
theorem cellCommandsMoveTheCell : Obligations.CellCommandsMoveTheCell := by
  unfold Obligations.CellCommandsMoveTheCell
  rintro s refused c a k moved rfl hw hk rfl rfl
  have hf := State.writeField_command hw
  have hopen : exec .openCell s = .next (s.openCommand c).advance := by simp only [exec, execOpenCell, hf]
  have hbar : exec .barCell s = .next (s.barCommand c).advance := by simp only [exec, execBarCell, hf]
  have hunbar : exec .unbarCell s = .next (s.unbarCommand c).advance := by simp only [exec, execUnbarCell, hf]
  have hdrain : exec .drainCell s = .next (s.drainCommand c).advance := by simp only [exec, execDrainCell, hf]
  have hstop : exec .stopDrain s = .next (s.stopDrainCommand c).advance := by simp only [exec, execStopDrain, hf]
  have hpast {w : State} (ht : w.transaction = s.transaction) :
      (Host.Outcome.next w.advance : Host.Outcome State Fault Refusal) = .next (w.pastWrite (0x118 + 32 * c.val)) :=
    congrArg Host.Outcome.next (State.advance_past hw ht)
  have hdone (st : CellState) : s.commandDone c st = s.modCell c fun _ => { k with state := st, result := .done } := by
    unfold State.commandDone State.modCell
    rw [hk]
    rfl
  refine ⟨fun hst => ?_, fun hst => ?_, fun hst => ?_, fun hst => ?_, fun hst => ?_, fun hst => ?_, fun hst => ?_, fun hst => ?_,
    fun hst => ?_, fun hst => ?_⟩
  · rw [hopen, State.openCommand, if_neg (hk ▸ hst)]
    exact hpast rfl
  · obtain ⟨hstore, hcell, hcells, hlevels, hports, hback, hevents⟩ := State.recompute_rewritten (c := c)
      (f := fun k => { k with state := .opened, result := .done }) hk rfl (fun _ => rfl) rfl rfl rfl
    refine ⟨_, ?_, hstore, hcell, hcells, hlevels, hports, hback, hevents⟩
    rw [hopen, State.openCommand, if_pos (hk ▸ hst)]
    exact hpast (s.recompute_modCell_transaction c c _)
  · rw [hbar, State.barCommand, if_neg (hk ▸ hst)]
    exact hpast rfl
  · rw [hbar, State.barCommand, if_pos (hk ▸ hst), hdone]
    exact hpast rfl
  · rw [hunbar, State.unbarCommand, if_neg (hk ▸ hst)]
    exact hpast rfl
  · rw [hunbar, State.unbarCommand, if_pos (hk ▸ hst), hdone]
    exact hpast (State.servicePass_transaction _ _)
  · rw [hdrain, State.drainCommand, if_neg (by rw [← hk]; rcases hst with h | h <;> simp [h])]
    exact hpast rfl
  · refine ⟨((s.commandDone c .draining).modCell c fun k => { k with drainFlag := true }).chooseJob, ?_, ?_,
      State.chooseJob_chooses rfl⟩
    · rw [hdrain, State.drainCommand, if_pos (hk ▸ hst)]
      exact hpast rfl
    · rw [hdone, State.modCell_modCell]
      rfl
  · rw [hstop, State.stopDrainCommand, if_neg (hk ▸ hst)]
    exact hpast rfl
  · refine ⟨((s.commandDone c .barred).modCell c fun k => { k with drainFlag := false }).dropJob (.cellDrain c), ?_, ?_, rfl,
      State.chooseJob_chooses rfl⟩
    · rw [hstop, State.stopDrainCommand, if_pos (hk ▸ hst)]
      exact hpast rfl
    · rw [hdone, State.modCell_modCell]
      rfl

/-! ### Writes of capacity, floor and thresholds -/

/-- What a write of one threshold does, given the field it stores (R23, R133). -/
theorem State.thresholdWrite_effect {s w : State} {b : Byte} {c : CellIx} {k n : Cell} {a u old : Nat} {f : Cell → Cell}
    (hw : s.writesAt a) (hk : k = s.cell c) (hn : f k = n) (hpending : ∀ k, (f k).pendingLevel = k.pendingLevel)
    (hlevel : n.level = k.level) (howner : n.owner = k.owner)
    (hexec : exec (.thresholdWrite b) s = .next w.advance) (hwrite : w = if u = old then s else (s.modCell c f).recompute c)
    (hsame : n = k ↔ u = old) :
    (n = k → exec (.thresholdWrite b) s = .next (s.pastWrite a))
    ∧ (n ≠ k → ∃ w : State, StoreKept s w ∧ CellIs w c n.recomputed ∧ CellsKept s w [c]
      ∧ Delivers s w k.owner (levelNotices s w c) ∧ PortsKept s w [k.owner] ∧ w.background = s.background ∧ EventsKept s w
      ∧ exec (.thresholdWrite b) s = .next (w.pastWrite a)) := by
  refine ⟨fun heq => ?_, fun hne => ?_⟩
  · rw [hexec, hwrite, if_pos (hsame.1 heq)]
    exact congrArg Host.Outcome.next (State.advance_past (s := s) hw rfl)
  · obtain ⟨hstore, hcell, hcells, hlevels, hports, hback, hevents⟩ :=
      State.recompute_rewritten hk hn hpending hlevel howner (w := w) (by rw [hwrite, if_neg fun h => hne (hsame.2 h)])
    refine ⟨w, hstore, hcell, hcells, hlevels, hports, hback, hevents, ?_⟩
    rw [hexec]
    exact congrArg Host.Outcome.next (State.advance_past hw (congrArg Background.transaction hback))

/-- Settles O56, by whether the value is the one already held. -/
theorem cellWritesRecomputeAndServe : Obligations.CellWritesRecomputeAndServe := by
  unfold Obligations.CellWritesRecomputeAndServe
  rintro s b c k v u hk rfl rfl
  refine ⟨fun hw => ?_, fun hw => ?_, fun j n hj hw => ?_⟩
  · have hf : s.writeField = some (.capacity c, .low) := (State.writeField_of hw).trans (locate_cell c 0x03 (by omega))
    have hexec : exec (.capacityWrite b) s = .next (s.writeCapacity c (s.delivered b).toNat).advance := by
      simp only [exec, execCapacityWrite, hf]
    refine ⟨fun heq => ?_, fun hne => ?_⟩
    · rw [hexec, State.writeCapacity, if_pos (hk ▸ heq)]
      exact congrArg Host.Outcome.next (State.advance_past (s := s) hw rfl)
    · obtain ⟨hstore, hcell, hcells, hlevels, hports, hback, hevents⟩ := State.recompute_rewritten (c := c)
        (f := fun k => { k with capacity := (s.holding ++ b).toNat }) hk rfl (fun _ => rfl) rfl rfl rfl
      refine ⟨_, hstore, hcell, hcells, hlevels, hports, hback, hevents, ?_⟩
      rw [hexec, State.writeCapacity, if_neg (hk ▸ hne), State.serviceWhen_decide, ← hk]
      refine congrArg Host.Outcome.next (State.advance_past hw ?_)
      split
      · rw [State.servicePass_transaction]
        exact s.recompute_modCell_transaction c c _
      · exact s.recompute_modCell_transaction c c _
  · have hf : s.writeField = some (.floor c, .low) := (State.writeField_of hw).trans (locate_cell c 0x05 (by omega))
    let stored : Cell → Cell := fun k => { k with floor := (s.holding ++ b).toNat }
    refine ⟨s.modCell c stored, by rw [State.cell_modCell_self, hk],
      fun d hd => State.cell_modCell_ne _ _ _ _ (by simpa using hd), rfl, ?_⟩
    have hexec : exec (.floorWrite b) s = .next (s.writeFloor c (s.delivered b).toNat).advance := by
      simp only [exec, execFloorWrite, hf]
    rw [hexec, State.writeFloor, State.serviceWhen_decide, ← hk]
    refine congrArg Host.Outcome.next (State.advance_past hw ?_)
    split
    · exact State.servicePass_transaction _ _
    · rfl
  · rcases hj with ⟨rfl, rfl⟩ | ⟨rfl, rfl⟩ | ⟨rfl, rfl⟩
    · have hf : s.writeField = some (.threshold1 c, .low) := (State.writeField_of hw).trans (locate_cell c 0x07 (by omega))
      exact State.thresholdWrite_effect (w := s.writeThreshold1 c (s.delivered b).toNat)
        (f := fun k => { k with t1 := clampThreshold (s.delivered b).toNat })
        hw hk rfl (fun _ => rfl) rfl rfl (by simp only [exec, execThresholdWrite, hf]) rfl
        ⟨fun h => hk ▸ congrArg Cell.t1 h, fun h => by rw [hk]; exact congrArg (fun t => { s.cell c with t1 := t }) h⟩
    · have hf : s.writeField = some (.threshold2 c, .low) := (State.writeField_of hw).trans (locate_cell c 0x09 (by omega))
      exact State.thresholdWrite_effect (w := s.writeThreshold2 c (s.delivered b).toNat)
        (f := fun k => { k with t2 := clampThreshold (s.delivered b).toNat })
        hw hk rfl (fun _ => rfl) rfl rfl (by simp only [exec, execThresholdWrite, hf]) rfl
        ⟨fun h => hk ▸ congrArg Cell.t2 h, fun h => by rw [hk]; exact congrArg (fun t => { s.cell c with t2 := t }) h⟩
    · have hf : s.writeField = some (.threshold3 c, .low) := (State.writeField_of hw).trans (locate_cell c 0x0B (by omega))
      exact State.thresholdWrite_effect (w := s.writeThreshold3 c (s.delivered b).toNat)
        (f := fun k => { k with t3 := clampThreshold (s.delivered b).toNat })
        hw hk rfl (fun _ => rfl) rfl rfl (by simp only [exec, execThresholdWrite, hf]) rfl
        ⟨fun h => hk ▸ congrArg Cell.t3 h, fun h => by rw [hk]; exact congrArg (fun t => { s.cell c with t3 := t }) h⟩

end Sys2Proof.Machine
end

section
/-! Proofs of the statement about the writes of a cell's owner port and of its depth limit, which cuts the queue back
(chapters 2 and 4). -/

namespace Sys2Proof.Machine

/-! ### Displacing several records -/

theorem State.emergencyAt_congr {s t : State} {i : Nat} (h : t.record i = s.record i) : t.emergencyAt i = s.emergencyAt i := by
  unfold State.emergencyAt State.sessionAt State.liveAt
  rw [h]

theorem Cell.without_without (k : Cell) (i : Nat) (l : List Nat) : { k.without i with
      rankList := (k.without i).rankList.filter fun j => decide (j ∉ l)
      queue := (k.without i).queue.filter fun j => decide (j ∉ l)
      enqueueOrder := (k.without i).enqueueOrder.filter fun j => decide (j ∉ l) }
    = { k with
      rankList := k.rankList.filter fun j => decide (j ∉ i :: l)
      queue := k.queue.filter fun j => decide (j ∉ i :: l)
      enqueueOrder := k.enqueueOrder.filter fun j => decide (j ∉ i :: l) } := by
  have hboth (m : List Nat) : (m.filter fun j => decide (j ≠ i)).filter (fun j => decide (j ∉ l))
      = m.filter fun j => decide (j ∉ i :: l) := by
    rw [List.filter_filter]
    congr 1
    funext j
    rw [Bool.eq_iff_iff]
    simp only [Bool.and_eq_true, decide_eq_true_eq, List.mem_cons, not_or]
    exact and_comm
  simp only [Cell.without, hboth]

/-- What a displacement does to one of several records of a cell, displaced one after another: each leaves its life with the
notice that the room left by those before it gives. -/
structure Displaced (s t : State) (c : CellIx) (p : PortIx) (vs : List Nat) : Prop where
  retired : ∀ n i, vs[n]? = some i → ∃ ses st, s.liveAt i = some (ses, st) ∧ t.findKey ses.key = none
    ∧ t.record i = Record.mk (nextGeneration (s.record i).generation)
      (if (s.pendingAfter p n i (s.noticeOf i ses .expired .displaced)).isSome then .spent else .free)
      (s.pendingAfter p n i (s.noticeOf i ses .expired .displaced))
  delivers : Delivers s t p (vs.filterMap fun i => (s.liveAt i).map fun x => s.ringNotice i x.1 .expired .displaced)
  freeList : t.freeList = s.freeList ++ vs.filter fun i => decide ((t.record i).pending = none)
  keys : ∀ key, (∀ i ses st, i ∈ vs → s.liveAt i = some (ses, st) → ses.key ≠ key) → t.findKey key = s.findKey key
  noKey : ∀ key, s.findKey key = none → t.findKey key = none
  records : RecordsKept s t vs
  cell : t.cell c = { s.cell c with
    rankList := (s.cell c).rankList.filter fun j => decide (j ∉ vs)
    queue := (s.cell c).queue.filter fun j => decide (j ∉ vs)
    enqueueOrder := (s.cell c).enqueueOrder.filter fun j => decide (j ∉ vs) }
  cells : CellsKept s t [c]
  ports : PortsKept s t [p]
  still : Still s t

theorem Displaced.refl (s : State) (c : CellIx) (p : PortIx) : Displaced s s c p [] where
  retired n i h := by simp at h
  delivers := Delivers.refl rfl fun _ => Iff.rfl
  freeList := (List.append_nil _).symm
  keys _ _ := rfl
  noKey _ h := h
  records _ _ := rfl
  cell := by simp
  cells _ _ := rfl
  ports _ _ := rfl
  still := .refl s

/-- The notice that n others of the same event precede, after one of them is raised, is the one that n + 1 precede before. -/
theorem State.pendingAfter_succ {s x : State} {p : PortIx} {n i : Nat} {d : PendingNotice} {notice : Notice}
    (hr : x.record i = s.record i) (hq : Quiet s x) (hd : Delivers s x p [notice]) :
    x.pendingAfter p n i d = s.pendingAfter p (n + 1) i d := by
  unfold State.pendingAfter
  rw [hr, hq.portState]
  by_cases hs : (s.port p).state = .draining
  · rw [if_pos (.inl hs), if_pos (.inl hs)]
  · have hroom := hd.room hs
    simp only [hs, false_or, hroom, List.length_singleton]
    congr 1
    exact propext (by omega)

/-- One displacement ahead of several. -/
theorem Displaced.cons {s t : State} {c : CellIx} {p : PortIx} {j : Nat} {vs : List Nat} {v : Session} {st : Stage}
    (hl : s.liveAt j = some (v, st)) (hc : v.key.cell = c) (hp : p = (s.cell c).owner) (hj : j ∉ vs)
    (h : Displaced (s.displace j) t c p vs) : Displaced s t c p (j :: vs) := by
  obtain ⟨hrecord, hrecords, hfree, hcell, hcells, hports, hstill, hdelivers, hdropped, hkeys⟩ :=
    State.displace_effect s c p j v st hl hc hp
  have hsame (i : Nat) (hi : i ∈ vs) : (s.displace j).record i = s.record i :=
    hrecords i (by rintro hm; exact hj (List.mem_singleton.1 hm ▸ hi))
  have hlive (i : Nat) (hi : i ∈ vs) : (s.displace j).liveAt i = s.liveAt i := by
    unfold State.liveAt
    rw [hsame i hi]
  have hkept : t.record j = (s.displace j).record j := h.records j hj
  refine ⟨fun n i hn => ?_, ?_, ?_, fun key hkey => ?_, fun key hkey => h.noKey key ?_, fun i hi => ?_, ?_, fun d hd => ?_,
    fun o ho => ?_, hstill.trans h.still⟩
  · cases n with
    | zero =>
      obtain rfl : j = i := by simpa using hn
      exact ⟨v, st, hl, h.noKey _ hdropped, hkept.trans hrecord⟩
    | succ n =>
      have hn' : vs[n]? = some i := by simpa using hn
      have hi : i ∈ vs := List.mem_of_getElem? hn'
      obtain ⟨ses, st', hli, hnone, hri⟩ := h.retired n i hn'
      have hnotice : (s.displace j).noticeOf i ses .expired .displaced = s.noticeOf i ses .expired .displaced := by
        unfold State.noticeOf
        rw [hsame i hi]
      rw [hnotice, State.pendingAfter_succ (hsame i hi) hstill.quiet hdelivers, hsame i hi] at hri
      exact ⟨ses, st', by rw [← hlive i hi]; exact hli, hnone, hri⟩
  · have hnotices : (j :: vs).filterMap (fun i => (s.liveAt i).map fun x => s.ringNotice i x.1 .expired .displaced)
        = [s.ringNotice j v .expired .displaced] ++ vs.filterMap fun i =>
          ((s.displace j).liveAt i).map fun x => (s.displace j).ringNotice i x.1 .expired .displaced := by
      rw [List.filterMap_cons, hl]
      refine congrArg (s.ringNotice j v .expired .displaced :: ·) (List.filterMap_congr fun i hi => ?_)
      unfold State.ringNotice State.handleOf
      rw [hlive i hi, hsame i hi]
    rw [hnotices]
    exact hdelivers.trans h.delivers
  · rw [h.freeList, hfree, List.filter_cons, hkept, hrecord]
    cases s.pendingAfter p 0 j (s.noticeOf j v .expired .displaced) <;> simp
  · rw [h.keys key fun i ses st' hi hli => hkey i ses st' (List.mem_cons_of_mem _ hi) (by rw [← hlive i hi]; exact hli)]
    exact hkeys key (Ne.symm (hkey j v st List.mem_cons_self hl))
  · by_cases hk : key = v.key
    · rw [hk]; exact hdropped
    · rw [hkeys key hk, hkey]
  · rw [h.records i (fun hm => hi (List.mem_cons_of_mem _ hm)),
      hrecords i fun hm => hi (by rw [List.mem_singleton.1 hm]; exact List.mem_cons_self)]
  · rw [h.cell, hcell]
    exact Cell.without_without ..
  · rw [h.cells d hd, hcells d hd]
  · rw [h.ports o ho, hports o ho]

/-- Displacing several live records of a cell, each once. -/
theorem State.displaceAll_effect (c : CellIx) (p : PortIx) (vs : List Nat) {s : State} (hn : vs.Nodup)
    (hlive : ∀ j ∈ vs, ∃ v st, s.liveAt j = some (v, st) ∧ v.key.cell = c) (hp : p = (s.cell c).owner) :
    Displaced s (vs.foldl State.displace s) c p vs := by
  induction vs generalizing s with
  | nil => exact .refl s c p
  | cons j vs ih =>
    obtain ⟨hj, hn⟩ := List.nodup_cons.1 hn
    obtain ⟨v, st, hl, hc⟩ := hlive j List.mem_cons_self
    obtain ⟨-, hrecords, -, -, -, -, hstill, -⟩ := State.displace_effect s c p j v st hl hc hp
    refine Displaced.cons hl hc hp hj (ih hn (fun i hi => ?_) (hp.trans (hstill.quiet.cellOwner c).symm))
    have hsame : (s.displace j).record i = s.record i := hrecords i (by rintro hm; exact hj (List.mem_singleton.1 hm ▸ hi))
    unfold State.liveAt
    rw [hsame]
    exact hlive i (List.mem_cons_of_mem _ hi)

/-! ### Cutting a queue back -/

/-- A list without repeats keeps its front when the records of its back leave it. -/
theorem filter_notMem_append {a b : List Nat} (h : (a ++ b).Nodup) : (a ++ b).filter (fun i => decide (i ∉ b)) = a := by
  obtain ⟨-, -, hab⟩ := List.nodup_append.1 h
  have hfront : a.filter (fun i => decide (i ∉ b)) = a :=
    List.filter_eq_self.2 fun i hi => decide_eq_true fun hb => hab i hi i hb rfl
  have hback : b.filter (fun i => decide (i ∉ b)) = [] :=
    List.filter_eq_nil_iff.2 fun i hi => by simpa using hi
  rw [List.filter_append, hfront, hback, List.append_nil]

/-- The cut displaces the ordinary records behind the part that stays, tail first (R77). -/
theorem State.cutQueue_eq (c : CellIx) (limit : Nat) (kept : List Nat) (back : List Nat) {s : State} {fuel : Nat}
    (hq : (s.cell c).queue = kept ++ back.reverse) (hn : (s.cell c).queue.Nodup) (hfuel : back.length ≤ fuel)
    (hlive : ∀ j ∈ back, ∃ v st, s.liveAt j = some (v, st) ∧ v.key.cell = c) (hord : ∀ j ∈ back, s.emergencyAt j = false)
    (hlong : back ≠ [] → limit ≤ kept.length) (hstop : kept.length ≤ limit ∨ ∀ i ∈ kept, s.emergencyAt i = true) :
    s.cutQueue c limit fuel = back.foldl State.displace s := by
  induction back generalizing s fuel with
  | nil =>
    cases fuel with
    | zero => rfl
    | succ n =>
      unfold State.cutQueue
      by_cases hlen : (s.cell c).queue.length ≤ limit
      · rw [if_pos hlen]
        rfl
      · have hqk : (s.cell c).queue = kept := by simpa using hq
        rw [if_neg hlen, State.lastOrdinary_none s c (hqk ▸ hstop.resolve_left (hqk ▸ hlen))]
        rfl
  | cons j back ih =>
    have hq' : (s.cell c).queue = (kept ++ back.reverse) ++ [j] := by rw [hq]; simp
    have hj : j ∉ kept ++ back.reverse := by
      rw [hq', List.nodup_append] at hn
      exact fun hm => hn.2.2 j hm j List.mem_cons_self rfl
    obtain ⟨v, st, hl, hc⟩ := hlive j List.mem_cons_self
    obtain ⟨-, hrecords, -, hcell, -, -, -, -⟩ := State.displace_effect s c _ j v st hl hc rfl
    have hqueue : ((s.displace j).cell c).queue = kept ++ back.reverse := by
      rw [hcell, Cell.without, hq']
      rw [hq'] at hn
      simpa using filter_notMem_append hn
    have hsame (i : Nat) (hi : i ≠ j) : (s.displace j).record i = s.record i := hrecords i (by simpa using hi)
    have hback (i : Nat) (hi : i ∈ back) : i ≠ j := fun h => hj (List.mem_append_right _ (by simpa [h] using hi))
    obtain ⟨n, rfl⟩ : ∃ n, fuel = n + 1 := ⟨fuel - 1, by simp at hfuel; omega⟩
    have hlen : ¬ (s.cell c).queue.length ≤ limit := by
      have := hlong (by simp)
      rw [hq']
      simp
      omega
    have hlast : s.lastOrdinary c = some j :=
      State.lastOrdinary_some s c (kept ++ back.reverse) [] j hq' (by simp) (hord j List.mem_cons_self)
    unfold State.cutQueue
    rw [if_neg hlen, hlast]
    refine ih hqueue (hqueue ▸ ?_) (by simpa using hfuel) (fun i hi => ?_) (fun i hi => ?_) (fun _ => hlong (by simp)) ?_
    · rw [hq'] at hn
      exact (List.nodup_append.1 hn).1
    · unfold State.liveAt
      rw [hsame i (hback i hi)]
      exact hlive i (List.mem_cons_of_mem _ hi)
    · rw [State.emergencyAt_congr (hsame i (hback i hi))]
      exact hord i (List.mem_cons_of_mem _ hi)
    · refine hstop.imp_right fun h i hi => ?_
      rw [State.emergencyAt_congr (hsame i fun hij => hj (hij ▸ List.mem_append_left _ hi))]
      exact h i hi

/-- Where the records of a kind stand first, they are the first as many as there are. -/
theorem take_countP {f : Nat → Bool} {l : List Nat} (h : l.Pairwise fun i j => f j = true → f i = true) :
    (∀ i ∈ l.take (l.countP f), f i = true) ∧ ∀ i ∈ l.drop (l.countP f), f i = false := by
  induction l with
  | nil => simp
  | cons a l ih =>
    obtain ⟨ha, hl⟩ := List.pairwise_cons.1 h
    cases hfa : f a with
    | true => simpa [hfa] using ih hl
    | false =>
      have hnone : ∀ i ∈ l, f i = false := fun i hi => by
        cases hi' : f i with
        | false => rfl
        | true => rw [ha i hi hi'] at hfa; cases hfa
      have hcount : (a :: l).countP f = 0 := List.countP_eq_zero.2 (by simpa [hfa] using hnone)
      rw [hcount]
      simpa [hfa] using hnone

/-- Settles O57, by the displacements of the cut from the tail. -/
theorem ownerAndDepthLimitWrites : Obligations.OwnerAndDepthLimitWrites := by
  unfold Obligations.OwnerAndDepthLimitWrites
  intro s b c k hk
  refine ⟨fun hw => ?_, fun hw _ hexact => ?_⟩
  · have hf : s.writeField = some (.owner c, .whole) := (State.writeField_of hw).trans (locate_cell c 0x01 (by omega))
    have hexec : exec (.ownerPortWrite b) s = .next (s.writeOwner c b.toNat).advance := by
      simp only [exec, execOwnerPortWrite, hf]
    refine ⟨fun hclosed hpl => ?_, fun h => ?_⟩
    · let stored : Cell → Cell := fun k => { k with owner := Fin.ofNat 4 (min 3 b.toNat) }
      have hcell : (s.modCell c stored).cell c = stored k := by rw [State.cell_modCell_self, hk]
      refine ⟨s.modCell c stored, ?_, ⟨?_, ?_⟩, fun d hd => State.cell_modCell_ne _ _ _ _ (by simpa using hd), rfl⟩
      · rw [hexec, State.writeOwner, if_pos (hk ▸ ⟨hclosed, hpl⟩)]
        exact congrArg Host.Outcome.next (State.advance_past hw rfl)
      · rw [hcell]
        show min 3 b.toNat % 4 = _
        omega
      · rw [hcell]
    · rw [hexec, State.writeOwner, if_neg (hk ▸ by rcases h with h | h <;> simp [h])]
      exact congrArg Host.Outcome.next (State.advance_past (s := s) hw rfl)
  · have hf : s.writeField = some (.depthLimit c, .whole) := (State.writeField_of hw).trans (locate_cell c 0x0D (by omega))
    obtain ⟨-, -, -, hnodup, -, hqueue, hfirst, -, hrank, -⟩ := hexact.1 c
    rw [← hk] at hnodup hqueue hfirst hrank
    let stored : Cell → Cell := fun k => { k with depthLimit := min 64 b.toNat }
    have hcell : (s.modCell c stored).cell c = stored k := by rw [State.cell_modCell_self, hk]
    obtain ⟨hfront, hback⟩ := take_countP hfirst
    obtain ⟨stays, hstays⟩ : ∃ n, n = max (min 64 b.toNat) (k.queue.countP s.emergencyAt) := ⟨_, rfl⟩
    have hsplit : k.queue = k.queue.take stays ++ k.queue.drop stays := (List.take_append_drop ..).symm
    have hmem (i : Nat) (hi : i ∈ k.queue.drop stays) : i ∈ k.queue := List.mem_of_mem_drop hi
    have hlive (i : Nat) (hi : i ∈ (k.queue.drop stays).reverse) : ∃ v st, s.liveAt i = some (v, st) ∧ v.key.cell = c := by
      obtain ⟨v, st, hl, hc, -⟩ := (hqueue i).1 (hmem i (List.mem_reverse.1 hi))
      exact ⟨v, st, hl, hc⟩
    have hord (i : Nat) (hi : i ∈ (k.queue.drop stays).reverse) : s.emergencyAt i = false :=
      hback i ((List.drop_sublist_drop_left k.queue (by omega)).mem (List.mem_reverse.1 hi))
    have hcut := State.cutQueue_eq (s := s.modCell c stored) c (min 64 b.toNat) (k.queue.take stays) (k.queue.drop stays).reverse
      (fuel := k.queue.length) (by rw [hcell, List.reverse_reverse]; exact hsplit) (by rw [hcell]; exact hnodup) (by simp) hlive hord
      (fun hne => by
        have : stays < k.queue.length := by simpa using hne
        rw [List.length_take]
        omega)
      (by
        by_cases hle : k.queue.countP s.emergencyAt ≤ min 64 b.toNat
        · exact .inl (by rw [List.length_take]; omega)
        · exact .inr (by rw [show stays = k.queue.countP s.emergencyAt by omega]; exact hfront))
    have hd := State.displaceAll_effect (s := s.modCell c stored) c k.owner (k.queue.drop stays).reverse
      (List.nodup_reverse.2 (hnodup.sublist (List.drop_sublist ..))) hlive (by rw [hcell])
    rw [← hcut] at hd
    have hentry : ((s.modCell c stored).cutQueue c (min 64 b.toNat) k.queue.length).cell c = { k with
        depthLimit := min 64 b.toNat
        queue := k.queue.take stays
        enqueueOrder := k.enqueueOrder.filter fun j => decide (j ∉ k.queue.drop stays) } := by
      have hkept : k.queue.filter (fun j => decide (j ∉ k.queue.drop stays)) = k.queue.take stays := by
        have h := filter_notMem_append (hsplit ▸ hnodup)
        rwa [← hsplit] at h
      have hranked : k.rankList.filter (fun j => decide (j ∉ k.queue.drop stays)) = k.rankList := by
        refine List.filter_eq_self.2 fun i hi => decide_eq_true fun hd => ?_
        obtain ⟨ses, st, hl, -, hadmitted, -⟩ := (hrank i).1 hi
        obtain ⟨ses', st', hl', -, hqueued⟩ := (hqueue i).1 (hmem i hd)
        rw [hl] at hl'
        cases hl'
        cases st <;> simp [Stage.isAdmitted, Stage.isQueued] at hadmitted hqueued
      rw [hd.cell, hcell]
      simp only [List.mem_reverse, stored, hkept, hranked]
    refine ⟨_, k.queue.take stays, k.queue.drop stays, ?_, hsplit, by rw [hstays], hentry, hd.retired, ?_, hd.freeList,
      fun key hkey => hd.keys key fun i ses st hi hl => hkey i ses st (List.mem_reverse.1 hi) hl,
      fun i hi => hd.records i (fun hm => hi (List.mem_reverse.1 hm)),
      fun d hdc => ?_, hd.ports, hd.still.quiet.1, hd.still.2⟩
    · have hexec : exec (.depthLimitWrite b) s = .next (s.writeDepthLimit c b.toNat).advance := by
        simp only [exec, execDepthLimitWrite, hf]
      have hpast : ((s.modCell c stored).cutQueue c (min 64 b.toNat) k.queue.length).transaction = s.transaction :=
        Quiet.transaction (s := s.modCell c stored) (still_cutQueue ..).quiet
      rw [hexec, State.writeDepthLimit, State.serviceWhen_decide, ← hk, hentry, ite_not]
      refine congrArg Host.Outcome.next (State.advance_past hw ?_)
      split
      · exact hpast
      · rw [State.servicePass_transaction]
        exact hpast
    · exact Delivers.congr (s := s.modCell c stored) rfl rfl
        (fun e => (State.isPending_modCell s c stored (fun _ => rfl) e).symm) (fun _ => Iff.rfl) hd.delivers
    · rw [hd.cells d hdc, State.cell_modCell_ne _ _ _ _ (by simpa using hdc)]

end Sys2Proof.Machine
end

section
/-! Proofs of the statements about the writes of the aging weight and of the supervision interval (chapters 4 and 6). -/

namespace Sys2Proof.Machine

/-! ### Virtual arrivals -/

/-- Of two stamps of bounded age, the earlier is the one of greater age. -/
theorem later_iff_age {t x y : Tick} (hx : age t x ≤ 200000) (hy : age t y ≤ 200000) :
    later x y = decide (age t x < age t y) := by
  unfold later earlier
  unfold age at hx hy ⊢
  rw [Bool.eq_iff_iff]
  simp only [Bool.and_eq_true, decide_eq_true_eq, Bool.not_eq_true', decide_eq_false_iff_not]
  bv_omega

theorem earlier_eq_later {t x y : Tick} (hx : age t x ≤ 200000) (hy : age t y ≤ 200000) :
    earlier x y = decide (age t y < age t x) := by
  unfold earlier
  unfold age at hx hy ⊢
  rw [Bool.eq_iff_iff]
  simp only [decide_eq_true_eq]
  bv_omega

/-- The order of R71 by the ages of the virtual arrivals: emergency records first, and of two ordinary ones the one of greater
age. -/
def StandsAhead (e : Nat → Bool) (g : Nat → Nat) (i j : Nat) : Prop :=
  (e j = true → e i = true) ∧ (e i = false → e j = false → g j ≤ g i)

/-- A record placed in a queue in order leaves it in order. -/
theorem queueInsert_ordered {e : Nat → Bool} {va : Nat → Tick} {g : Nat → Nat} {i : Nat} {q : List Nat}
    (hlater : ∀ a ∈ i :: q, ∀ b ∈ i :: q, later (va a) (va b) = decide (g a < g b)) (hq : q.Pairwise (StandsAhead e g)) :
    (queueInsert e va i q).Perm (i :: q) ∧ (queueInsert e va i q).Pairwise (StandsAhead e g) := by
  obtain ⟨ahead, behind, rfl, hins, hahead, hbehind⟩ := newRecordsTakeTheirPlaces.1 e va i q
  obtain ⟨hfront, hback, hcross⟩ := List.pairwise_append.1 hq
  have hnext : ∀ y ∈ behind, StandsAhead e g i y := by
    cases hb : behind with
    | nil => simp
    | cons j more =>
      obtain ⟨hej, hstop⟩ := hbehind j more hb
      have hj : StandsAhead e g i j := by
        refine ⟨fun h => (by rw [hej] at h; cases h), fun hi _ => ?_⟩
        have hlt := hstop.resolve_left (by simp [hi])
        rw [hlater j (by simp [hb]) i (by simp)] at hlt
        exact (of_decide_eq_true hlt).le
      rw [hb] at hback
      intro y hy
      rcases List.mem_cons.1 hy with rfl | hy
      · exact hj
      · have hjy := (List.pairwise_cons.1 hback).1 y hy
        have hey : e y = false := by
          cases hey : e y with
          | false => rfl
          | true => rw [hjy.1 hey] at hej; cases hej
        exact ⟨fun h => (by rw [hey] at h; cases h), fun hi _ => (hjy.2 hej hey).trans (hj.2 hi hej)⟩
  have hlast : ∀ x ∈ ahead, StandsAhead e g x i := by
    intro x hx
    rcases hahead x hx with hex | ⟨hei, hnot⟩
    · exact ⟨fun _ => hex, fun h => (by rw [hex] at h; cases h)⟩
    · refine ⟨fun h => (by rw [hei] at h; cases h), fun _ _ => ?_⟩
      rw [hlater x (by simp [hx]) i (by simp)] at hnot
      exact Nat.le_of_not_lt (of_decide_eq_false hnot)
  rw [hins]
  refine ⟨List.perm_middle, List.pairwise_append.2 ⟨hfront, List.pairwise_cons.2 ⟨hnext, hback⟩, fun x hx y hy => ?_⟩⟩
  rcases List.mem_cons.1 hy with rfl | hy
  · exact hlast x hx
  · exact hcross x hx y hy

/-- Records placed one after another make a queue in order (R73). -/
theorem foldl_queueInsert_ordered {e : Nat → Bool} {va : Nat → Tick} {g : Nat → Nat} (l : List Nat) {q : List Nat}
    (hlater : ∀ a ∈ q ++ l, ∀ b ∈ q ++ l, later (va a) (va b) = decide (g a < g b)) (hq : q.Pairwise (StandsAhead e g)) :
    (l.foldl (fun q i => queueInsert e va i q) q).Perm (q ++ l)
    ∧ (l.foldl (fun q i => queueInsert e va i q) q).Pairwise (StandsAhead e g) := by
  induction l generalizing q with
  | nil => exact ⟨by simp, hq⟩
  | cons i l ih =>
    have hsub : ∀ a ∈ i :: q, a ∈ q ++ i :: l := fun a ha => by
      rcases List.mem_cons.1 ha with rfl | ha <;> simp [*]
    obtain ⟨hperm, hordered⟩ := queueInsert_ordered (fun a ha b hb => hlater a (hsub a ha) b (hsub b hb)) hq
    have hall : ((queueInsert e va i q) ++ l).Perm (q ++ i :: l) :=
      (hperm.append_right l).trans List.perm_middle.symm
    obtain ⟨hperm', hordered'⟩ := ih
      (fun a ha b hb => hlater a (hall.mem_iff.1 ha) b (hall.mem_iff.1 hb)) hordered
    exact ⟨hperm'.trans hall, hordered'⟩

/-! ### The aging weight -/

theorem State.cell_reweigh_queue (s : State) (w : Nat) (c : CellIx) : ((s.reweigh w).cell c).queue
    = (s.cell c).enqueueOrder.foldl (fun l i => queueInsert (s.reweigh w).emergencyAt (s.reweigh w).virtualAt i l) [] := by
  simp [State.reweigh, State.cell, State.reorderQueue]
  rfl

/-- A QUEUED record after a write of the aging weight. -/
theorem State.liveAt_reweigh_queued {s : State} {i : Nat} {ses : Session} {a va d : Tick} (w : Nat)
    (h : s.liveAt i = some (ses, .queued a va d)) :
    (s.reweigh w).liveAt i = some (ses, .queued a (virtualArrival a ses.level w) d) := by
  rw [State.liveAt_eq_some] at h ⊢
  rw [State.record_reweigh, Record.reweighted]
  simp [h]

/-- The age of a virtual arrival is that of the arrival and the weight of its level, where both are in their ranges (R72). -/
theorem age_virtualArrival {t a : Tick} {level w : Nat} (ha : (t - a).toNat ≤ 65535) (hl : level ≤ 15) (hw : w ≤ 4095) :
    age t (virtualArrival a level w) ≤ 200000 := by
  have hle : level * w ≤ 61425 := (Nat.mul_le_mul hl hw).trans (by decide)
  have hn : (BitVec.ofNat 32 (level * w)).toNat = level * w := by
    rw [BitVec.toNat_ofNat]
    omega
  unfold age virtualArrival
  generalize BitVec.ofNat 32 (level * w) = x at hn
  bv_omega

/-- Settles O58, by placing the records of each queue one after another. -/
theorem agingWeightWritesReorderTheQueues : Obligations.AgingWeightWritesReorderTheQueues := by
  unfold Obligations.AgingWeightWritesReorderTheQueues
  intro s b v hw hv
  have hf : s.writeField = some (.agingWeight, .low) := (State.writeField_of hw).trans (by decide)
  have hexec : exec (.agingWeightWrite b) s = .next (s.writeAgingWeight (s.delivered b).toNat).advance := by
    simp only [exec, execAgingWeightWrite, hf]
  have hvalue : min 4095 (s.delivered b).toNat = v := hv.symm
  rw [hexec, State.writeAgingWeight, hvalue]
  refine ⟨fun hsame => ?_, fun hne _ => ?_⟩
  · rw [if_pos hsame]
    exact congrArg Host.Outcome.next (State.advance_past (s := s) hw rfl)
  · rw [if_neg hne]
    refine ⟨s.reweigh v, congrArg Host.Outcome.next (State.advance_past hw rfl), rfl, ⟨rfl, rfl⟩, fun i => ?_, fun c => ?_, rfl,
      fun hexact hbound c => ?_⟩
    · rw [State.record_reweigh, Record.reweighted]
      unfold virtualArrival
      cases (s.record i).life with
      | live ses st => cases st <;> rfl
      | _ => rfl
    · rw [State.cell_reweigh, State.cell_reweigh_queue]
    · obtain ⟨-, -, -, -, horder, hqueue, -⟩ := hexact c
      have hage (i : Nat) (hi : i ∈ (s.cell c).enqueueOrder) : age s.tick ((s.reweigh v).virtualAt i) ≤ 200000 := by
        obtain ⟨ses, st, hl, -, hst⟩ := (hqueue i).1 (horder.mem_iff.1 hi)
        cases st <;> simp [Stage.isQueued] at hst
        next a va d =>
          obtain ⟨hlevel, harrival⟩ := hbound i ses a va d hl
          have hva : (s.reweigh v).virtualAt i = virtualArrival a ses.level v := by
            unfold State.virtualAt
            rw [State.liveAt_reweigh_queued v hl]
          rw [hva]
          exact age_virtualArrival harrival hlevel (by omega)
      obtain ⟨hperm, hordered⟩ := foldl_queueInsert_ordered (e := (s.reweigh v).emergencyAt)
        (g := fun i => age s.tick ((s.reweigh v).virtualAt i)) (s.cell c).enqueueOrder (q := [])
        (fun a ha b hb => later_iff_age (hage a ha) (hage b hb)) List.Pairwise.nil
      rw [State.cell_reweigh_queue]
      refine ⟨hperm.trans horder, hordered.imp_of_mem fun {i j} hi hj hij => ⟨hij.1, fun hei hej => ?_⟩⟩
      rw [earlier_eq_later (hage j (hperm.mem_iff.1 hj)) (hage i (hperm.mem_iff.1 hi))]
      exact decide_eq_false (Nat.not_lt.2 (hij.2 hei hej))

/-! ### The supervision interval -/

theorem State.expirePort_enters {s : State} {p : PortIx} (h : (s.port p).backlog.Nodup) :
    EntersDraining s (s.enterDraining p) p ∧ (s.expirePort p).eventRaw = s.eventRaw ||| 1#10 <<< p.val := by
  have henters := State.enterDraining_enters s p h
  refine ⟨henters, ?_⟩
  obtain ⟨-, -, -, -, -, hraw, -⟩ := henters
  show (s.enterDraining p).eventRaw ||| portDownEvent p = _
  rw [hraw, portDownEvent_eq]

theorem getLsbD_one_shiftLeft (p : PortIx) (k : Nat) : (1#10 <<< p.val).getLsbD k = decide (p.val = k) := by
  have hp := p.isLt
  rw [BitVec.getLsbD_shiftLeft]
  by_cases h : p.val = k
  · subst h
    simp
    omega
  · by_cases hlt : k < p.val
    · simp [h, hlt]
    · have : k - p.val ≠ 0 := by omega
      simp [h, this]

/-- What is left when several ports have expired, one after another. -/
structure PortsExpired (s t : State) (order : List PortIx) : Prop where
  entered : ∀ p, p ∈ order → t.port p = (s.enterDraining p).port p
  ports : ∀ p, p ∉ order → t.port p = s.port p
  left : BacklogLeft s t (order.flatMap fun p => (s.port p).backlog)
  events : ∀ k, t.eventRaw.getLsbD k = (s.eventRaw.getLsbD k || decide (∃ p, p ∈ order ∧ p.val = k))
  background : t.background = { s.background with chosen := t.chosen }

theorem PortsExpired.refl (s : State) : PortsExpired s s [] where
  entered p hp := by cases hp
  ports _ _ := rfl
  left := BacklogLeft.nil s
  events k := by simp
  background := rfl

/-- A port that enters DRAINING does so by its own entry alone. -/
theorem EntersDraining.port_congr {s t x y : State} {p : PortIx} (hs : EntersDraining s x p) (ht : EntersDraining t y p)
    (h : t.port p = s.port p) : y.port p = x.port p := by
  obtain ⟨hx, -⟩ := hs
  obtain ⟨hy, -⟩ := ht
  rw [hx, hy, h]

theorem State.expireAll_effect {order : List PortIx} (hn : order.Nodup) {s : State} (hnodup : ∀ p, (s.port p).backlog.Nodup)
    (honce : ∀ e p o, e ∈ (s.port p).backlog → e ∈ (s.port o).backlog → p = o) :
    PortsExpired s (order.foldl State.expirePort s) order := by
  induction order generalizing s with
  | nil => exact .refl s
  | cons p rest ih =>
    obtain ⟨hp, hn⟩ := List.nodup_cons.1 hn
    obtain ⟨henters, hraw⟩ := State.expirePort_enters (hnodup p)
    obtain ⟨hself, hkept, hleft, -, hback, -⟩ := id henters
    have hother (o : PortIx) (ho : o ≠ p) : (s.expirePort p).port o = s.port o := hkept o (by simpa using ho)
    have hmine : (s.expirePort p).port p = (s.enterDraining p).port p := rfl
    have hempty : ((s.expirePort p).port p).backlog = [] := by rw [hmine, hself]
    have hsub (o : PortIx) : ((s.expirePort p).port o).backlog = if o = p then [] else (s.port o).backlog := by
      split
      · next h => rw [h, hempty]
      · next h => rw [hother o h]
    obtain ⟨entered, ports, left, events, background⟩ := ih hn (s := s.expirePort p)
      (fun o => by
        rw [hsub]
        split
        · exact List.nodup_nil
        · exact hnodup o)
      (fun e o q ho hq => by
        rw [hsub] at ho hq
        split at ho
        · cases ho
        · split at hq
          · cases hq
          · exact honce e o q ho hq)
    have hrest (o : PortIx) (ho : o ∈ rest) : o ≠ p := fun h => hp (h ▸ ho)
    have hmap : (rest.flatMap fun o => ((s.expirePort p).port o).backlog) = rest.flatMap fun o => (s.port o).backlog :=
      List.flatMap_congr fun o ho => by rw [hother o (hrest o ho)]
    rw [hmap] at left
    refine ⟨fun o ho => ?_, fun o ho => ?_, ?_, fun k => ?_, ?_⟩
    · rcases List.mem_cons.1 ho with rfl | ho
      · exact ports o hp
      · have hsame := hother o (hrest o ho)
        refine (entered o ho).trans (EntersDraining.port_congr (State.enterDraining_enters s o (hnodup o))
          (State.enterDraining_enters (s.expirePort p) o ?_) hsame)
        rw [hsame]
        exact hnodup o
    · have hne : o ≠ p := fun h => ho (h ▸ List.mem_cons_self)
      exact (ports o fun h => ho (List.mem_cons_of_mem _ h)).trans (hother o hne)
    · have hleft' : BacklogLeft s (s.expirePort p) (s.port p).backlog := hleft
      refine hleft'.trans left fun e he hpe => ?_
      obtain ⟨o, ho, hoe⟩ := List.mem_flatMap.1 he
      exact hrest o ho (honce e o p hoe hpe)
    · rw [List.foldl_cons, events k, hraw, BitVec.getLsbD_or, getLsbD_one_shiftLeft, Bool.or_assoc, ← Bool.decide_or]
      simp
    · rw [List.foldl_cons, background, show (s.expirePort p).background = _ from hback]

/-- What the engine has chosen when several ports have expired (R140). -/
theorem State.expireAll_chosen {order : List PortIx} {s : State} (hn : ∀ p, (s.port p).backlog.Nodup) :
    (s.job ≠ none → s.chosen = none → (order.foldl State.expirePort s).chosen = none)
    ∧ (s.job = none → s.chosen ≠ none → (order.foldl State.expirePort s).chosen = s.chosen)
    ∧ (s.job = none → s.chosen = none → (∀ p, (s.port p).drainFlag = false) →
      (order.foldl State.expirePort s).chosen = order.head?.map Job.portDrain) := by
  induction order generalizing s with
  | nil => exact ⟨fun _ h => h, fun _ _ => rfl, fun _ h _ => h⟩
  | cons p rest ih =>
    obtain ⟨⟨hself, hkept, -, ⟨hbusy, hstands, hlooks⟩, hback, -⟩, -⟩ := State.expirePort_enters (hn p)
    have hjob : (s.expirePort p).job = s.job := congrArg Background.job hback
    have hjob' : (s.enterDraining p).job = s.job := hjob
    have hchosen : (s.expirePort p).chosen = (s.enterDraining p).chosen := rfl
    obtain ⟨ihbusy, ihstands, -⟩ := ih (s := s.expirePort p) fun o => by
      by_cases ho : o = p
      · subst ho
        rw [show (s.expirePort o).port o = _ from hself]
        exact List.nodup_nil
      · rw [show (s.expirePort p).port o = s.port o from hkept o (by simpa using ho)]
        exact hn o
    refine ⟨fun hj _ => ihbusy (hjob ▸ hj) (hchosen.trans (hbusy (hjob' ▸ hj))), fun hj hc => ?_, fun hj hc hflags => ?_⟩
    · have hsame := hchosen.trans (hstands (hjob'.trans hj) hc)
      exact (ihstands (hjob.trans hj) (hsame ▸ hc)).trans hsame
    · have hflag : ((s.enterDraining p).port p).drainFlag = true := by rw [hself]
      have hfirst : (s.expirePort p).chosen = some (.portDrain p) := by
        refine hchosen.trans ((hlooks (hjob'.trans hj) hc).1 p hflag fun o ho => ?_)
        rw [hkept o (by simpa using ho.ne)]
        exact hflags o
      exact (ihstands (hjob.trans hj) (by rw [hfirst]; simp)).trans hfirst

theorem State.mem_overduePorts {s : State} {p : PortIx} : p ∈ s.overduePorts
    ↔ (s.port p).state = .up ∧ s.supervision ≠ 0 ∧ s.supervision ≤ (s.tick - (s.port p).timestamp).toNat := by
  unfold State.overduePorts State.watched
  rw [List.mem_filter, Bool.and_eq_true, Bool.and_eq_true, decide_eq_true_eq, decide_eq_true_eq, decide_eq_true_eq, and_assoc]
  exact and_iff_right (List.mem_finRange p)

/-- Settles O59, by the expiry of the overdue ports one after another. -/
theorem supervisionWritesJudgeTheAges : Obligations.SupervisionWritesJudgeTheAges := by
  unfold Obligations.SupervisionWritesJudgeTheAges
  intro s b v hw hv
  have hf : s.writeField = some (.supervision, .low) := (State.writeField_of hw).trans (by decide)
  have hexec : exec (.supervisionIntervalWrite b) s = .next (s.writeSupervision (s.delivered b).toNat).advance := by
    simp only [exec, execSupervisionIntervalWrite, hf]
  have hvalue : min 5000 (s.delivered b).toNat = v := hv.symm
  rw [hexec, State.writeSupervision, hvalue]
  refine ⟨fun hsame => ?_, fun hne h0 => ?_, fun hne h0 hs => ?_, fun hne h0 hs hexact => ?_⟩
  · rw [if_pos hsame]
    exact congrArg Host.Outcome.next (State.advance_past (s := s) hw rfl)
  · rw [if_neg hne, if_pos h0, h0]
    exact congrArg Host.Outcome.next (State.advance_past hw rfl)
  · rw [if_neg hne, if_neg h0, if_pos hs]
    refine ⟨_, congrArg Host.Outcome.next (State.advance_past hw rfl), rfl, rfl, fun p => ?_⟩
    rw [State.port_restartSupervision]
    show (if (s.port p).state = .up then { s.port p with timestamp := s.tick } else s.port p) = _
    split <;> rfl
  · rw [if_neg hne, if_neg h0, if_neg hs]
    have hb := (backlogExact_iff s).1 hexact
    let x : State := { s with supervision := v }
    obtain ⟨order, horder⟩ : ∃ l, l = openOrder x.freeDraws x.overduePorts := ⟨_, rfl⟩
    have hperm : order.Perm x.overduePorts := horder ▸ openOrder_perm _ _
    have hn : order.Nodup := hperm.nodup_iff.2 ((List.nodup_finRange 4).filter _)
    have h := State.expireAll_effect (s := x) hn hb.nodup hb.once
    have hx : x.expirePorts = { order.foldl State.expirePort x with freeDraws := x.freeDraws + x.overduePorts.length } := by
      rw [horder]
      rfl
    refine ⟨x.expirePorts, order, congrArg Host.Outcome.next (State.advance_past hw ?_), hn, fun p => ?_, fun p hp => ?_,
      fun p hp => ?_, ?_, fun k => ?_, fun hengine => ?_, ?_⟩
    · rw [hx]
      exact congrArg Background.transaction h.background
    · rw [hperm.mem_iff, State.mem_overduePorts]
      exact and_congr_right fun _ => and_iff_right h0
    · refine ⟨s.enterDraining p, State.enterDraining_enters s p (hb.nodup p), ?_⟩
      rw [hx]
      exact (h.entered p hp).trans (EntersDraining.port_congr (State.enterDraining_enters s p (hb.nodup p))
        (State.enterDraining_enters x p (hb.nodup p)) rfl)
    · rw [hx]
      exact h.ports p hp
    · rw [hx]
      exact h.left
    · rw [hx]
      exact h.events k
    · obtain ⟨hbusy, hidle, -⟩ := hengine
      obtain ⟨kept, stands, looks⟩ := State.expireAll_chosen (s := x) (order := order) hb.nodup
      rw [hx]
      show (order.foldl State.expirePort x).chosen = _
      by_cases hj : s.job = none
      · by_cases hc : s.chosen = none
        · rw [if_pos ⟨hj, hc⟩]
          exact looks hj hc (hidle hj hc).1
        · rw [if_neg fun h => hc h.2]
          exact stands hj hc
      · rw [if_neg fun h => hj h.1, hbusy hj]
        exact kept hj (hbusy hj)
    · rw [hx]
      exact congrArg (fun g : Background => { g with freeDraws := x.freeDraws + x.overduePorts.length }) h.background

end Sys2Proof.Machine
end

section
/-! Proof of the statement about the tick: what a tick takes makes nothing due, since a deadline or a pulse that forms at a tick
lies after it (chapter 6 and 9.6). -/

namespace Sys2Proof.Machine

/-! ### Changes that make nothing due -/

/-- The deadline of a stage is the one it had, or none, or one formed now from a duration of its session (R114). -/
def Stage.timely (st st' : Stage) (now : Tick) (ses : Session) : Prop :=
  st'.deadline? = st.deadline? ∨ st'.deadline? = none
    ∨ ∃ n k, (n = ses.grace ∨ n = ses.setupGuard ∧ 1 ≤ n) ∧ st'.deadline? = some (after now n, k)

/-- The supervision of a port is as it was or has ended, and its pulse is the one it had, or none, or one that starts now. -/
structure Port.Timely (q q' : Port) (now : Tick) : Prop where
  width : q'.pulseWidth = q.pulseWidth
  timestamp : q'.timestamp = q.timestamp
  up : q'.state = .up → q.state = .up
  pulse : q'.pulseStop = q.pulseStop ∨ q'.pulseStop = none ∨ q'.pulseStop = some (after now q.pulseWidth)

theorem Port.Timely.refl (q : Port) (now : Tick) : q.Timely q now := ⟨rfl, rfl, id, .inl rfl⟩

theorem Port.Timely.trans {q r v : Port} {now : Tick} (h1 : q.Timely r now) (h2 : r.Timely v now) : q.Timely v now := by
  refine ⟨h2.width.trans h1.width, h2.timestamp.trans h1.timestamp, fun h => h1.up (h2.up h), ?_⟩
  rcases h2.pulse with h | h | h
  · rw [h]
    exact h1.pulse
  · exact .inr (.inl h)
  · exact .inr (.inr (h1.width ▸ h))

theorem Port.Timely.followRing (q : Port) (now : Tick) (before : Nat) : q.Timely (q.followRing now before) now := by
  unfold Port.followRing
  split
  · split
    · split
      · exact ⟨rfl, rfl, id, .inr (.inr rfl)⟩
      · exact .refl q now
    · exact ⟨rfl, rfl, id, .inl rfl⟩
  · exact ⟨rfl, rfl, id, .inl rfl⟩

theorem Port.Timely.pushRing (q : Port) (now : Tick) (n : Notice) : q.Timely (q.pushRing now n) now :=
  Port.Timely.trans (r := { q with ring := q.ring ++ [n] }) ⟨rfl, rfl, id, .inl rfl⟩ (.followRing ..)

/-- A change at a tick that makes nothing due: the tick and the interval stand, no port gains supervision, and the deadlines and
pulses there are, are those there were or formed now. -/
structure Timely (s t : State) : Prop where
  tick : t.tick = s.tick
  supervision : t.supervision = s.supervision
  ports : ∀ p, (s.port p).Timely (t.port p) s.tick
  live : ∀ i ses st', t.liveAt i = some (ses, st') → ∃ st, s.liveAt i = some (ses, st) ∧ st.timely st' s.tick ses

theorem Timely.of_same {s t : State} (htick : t.tick = s.tick) (hsup : t.supervision = s.supervision) (hp : t.ports = s.ports)
    (hl : ∀ i, t.liveAt i = s.liveAt i) : Timely s t := by
  refine ⟨htick, hsup, fun p => ?_, fun i ses st h => ⟨st, hl i ▸ h, .inl rfl⟩⟩
  rw [show t.port p = s.port p by unfold State.port; rw [hp]]
  exact .refl _ _

theorem Timely.refl (s : State) : Timely s s := .of_same rfl rfl rfl fun _ => rfl

theorem Timely.trans {s t u : State} (h1 : Timely s t) (h2 : Timely t u) : Timely s u := by
  refine ⟨h2.tick.trans h1.tick, h2.supervision.trans h1.supervision,
    fun p => (h1.ports p).trans (h1.tick ▸ h2.ports p), fun i ses st h => ?_⟩
  obtain ⟨st', hl', ht⟩ := h2.live i ses st h
  obtain ⟨st'', hl'', ht'⟩ := h1.live i ses st' hl'
  refine ⟨st'', hl'', ?_⟩
  unfold Stage.timely at ht ht' ⊢
  rw [h1.tick] at ht
  rcases ht with h | h | h
  · rw [h]
    exact ht'
  · exact .inr (.inl h)
  · exact .inr (.inr h)

theorem Timely.modCell (s : State) (c : CellIx) (f : Cell → Cell) : Timely s (s.modCell c f) :=
  .of_same rfl rfl rfl fun _ => rfl

theorem Timely.modPort {s : State} (p : PortIx) (f : Port → Port) (h : (s.port p).Timely (f (s.port p)) s.tick) :
    Timely s (s.modPort p f) := by
  refine ⟨rfl, rfl, fun o => ?_, fun i ses st hl => ⟨st, hl, .inl rfl⟩⟩
  rw [State.port_modPort]
  split
  · next ho => rw [ho]; exact h
  · exact .refl _ _

theorem Timely.setLive {s : State} {i : Nat} {ses : Session} {st st' : Stage} (hl : s.liveAt i = some (ses, st))
    (h : st.timely st' s.tick ses) : Timely s (s.setLive i ses st') := by
  refine ⟨rfl, rfl, fun p => .refl _ _, fun j ses' st'' hj => ?_⟩
  rw [State.liveAt_setLive] at hj
  split at hj
  · next hij =>
    cases hj
    exact ⟨st, hij ▸ hl, h⟩
  · exact ⟨st'', hj, .inl rfl⟩

theorem Timely.raiseSession (s : State) (i : Nat) (kind : SessionNotice) (cause : Cause) :
    Timely s (s.raiseSession i kind cause) := by
  cases hl : s.liveAt i with
  | none => simpa [State.raiseSession, hl] using Timely.refl s
  | some x =>
    rcases State.raiseSession_cases s i kind cause x.1 x.2 hl _ rfl with ⟨-, he⟩ | ⟨-, -, he⟩ | ⟨-, -, he⟩ <;> rw [he]
    · exact .refl s
    · exact .modPort _ _ (.pushRing ..)
    · have hset : Timely s (s.setPending i (some (s.noticeOf i x.1 kind cause))) :=
        .of_same rfl rfl rfl fun j => State.liveAt_setPending ..
      exact hset.trans (.modPort _ _ ⟨rfl, rfl, id, .inl rfl⟩)

theorem Timely.raiseLevel (s : State) (c : CellIx) : Timely s (s.raiseLevel c) := by
  rcases s.raiseLevel_cases c _ rfl with ⟨-, he⟩ | ⟨-, -, he⟩ | ⟨-, -, he⟩ <;> rw [he]
  · exact .refl s
  · exact .modPort _ _ (.pushRing ..)
  · exact (Timely.modCell ..).trans (.modPort _ _ ⟨rfl, rfl, id, .inl rfl⟩)

theorem Timely.recompute (s : State) (c : CellIx) : Timely s (s.recompute c) := by
  unfold State.recompute
  dsimp only
  split
  · exact .modCell ..
  · exact (Timely.modCell ..).trans (.raiseLevel ..)

theorem Timely.closeCell (s : State) (c : CellIx) : Timely s (s.closeCell c) := by
  unfold State.closeCell
  dsimp only
  split
  · exact .modCell ..
  · exact (Timely.modCell ..).trans (.raiseLevel ..)

theorem Timely.countSetup (s : State) (c : CellIx) (i : Nat) (ses : Session) : Timely s (s.countSetup c i ses) := by
  unfold State.countSetup State.joinRank
  split <;> exact .of_same rfl rfl rfl fun _ => rfl

theorem Timely.unbindAll (s : State) (hs : List Handle) : Timely s (s.unbindAll hs) := by
  unfold State.unbindAll
  induction hs generalizing s with
  | nil => exact .refl s
  | cons h rest ih =>
    refine Timely.trans ?_ (ih _)
    unfold State.unbind
    split
    · next hl =>
      split
      · exact .setLive hl (.inl rfl)
      · exact .refl s
    · exact .refl s

theorem Timely.takeVictims (s : State) (rq : Handle) (c : CellIx) (vs : List Nat) : Timely s (s.takeVictims rq c vs) := by
  unfold State.takeVictims
  induction vs generalizing s with
  | nil => exact .refl s
  | cons i rest ih =>
    refine Timely.trans ?_ (ih _)
    unfold State.takeVictim
    split
    · next ses st hl =>
      have hcells : Timely s (((s.leaveRank c i).subA c ses.demand).addC c ses.demand) := .of_same rfl rfl rfl fun _ => rfl
      have hset := Timely.setLive (s := ((s.leaveRank c i).subA c ses.demand).addC c ses.demand) hl
        (st' := .ceding st.stamp (some rq) (after s.tick ses.grace)) (.inr (.inr ⟨_, 2, .inl rfl, rfl⟩))
      exact (hcells.trans hset).trans (.raiseSession ..)
    · exact .refl s

/-- The setup stage given now (R48, R60). -/
theorem setupStage_timely (st : Stage) (now : Tick) (ses : Session) : st.timely (setupStage now ses) now ses := by
  unfold Stage.timely setupStage guardDeadline
  split
  · exact .inr (.inl rfl)
  · next h => exact .inr (.inr ⟨_, 1, .inr ⟨rfl, Nat.pos_of_ne_zero h⟩, rfl⟩)

/-- Beneficiaries that become absent leave every record its session. -/
theorem State.unbindAll_live {s : State} {i : Nat} {ses : Session} {st : Stage} (hs : List Handle) (h : s.liveAt i = some (ses, st)) :
    ∃ st', (s.unbindAll hs).liveAt i = some (ses, st') := by
  unfold State.unbindAll
  induction hs generalizing s st with
  | nil => exact ⟨st, h⟩
  | cons a rest ih =>
    have hone : ∃ st', (s.unbind a).liveAt i = some (ses, st') := by
      unfold State.unbind
      split
      · next ses' stamp b deadline hl =>
        split
        · rw [State.liveAt_setLive]
          split
          · next hi =>
            rw [hi, hl] at h
            cases h
            exact ⟨_, rfl⟩
          · exact ⟨st, h⟩
        · exact ⟨st, h⟩
      · exact ⟨st, h⟩
    obtain ⟨st', h'⟩ := hone
    exact ih h'

/-- The taking of victims leaves every record its session. -/
theorem State.takeVictims_live {s : State} {i : Nat} {ses : Session} {st : Stage} (rq : Handle) (c : CellIx) (vs : List Nat)
    (h : s.liveAt i = some (ses, st)) : ∃ st', (s.takeVictims rq c vs).liveAt i = some (ses, st') := by
  unfold State.takeVictims
  induction vs generalizing s st with
  | nil => exact ⟨st, h⟩
  | cons j rest ih =>
    have hone : ∃ st', (State.takeVictim rq c s j).liveAt i = some (ses, st') := by
      unfold State.takeVictim
      split
      · next ses' st' hl =>
        rw [State.raiseSession_liveAt, State.liveAt_setLive]
        split
        · next hi =>
          rw [hi, hl] at h
          cases h
          exact ⟨_, rfl⟩
        · exact ⟨st, h⟩
      · exact ⟨st, h⟩
    obtain ⟨st', h'⟩ := hone
    exact ih h'

theorem Timely.promote {s : State} {i : Nat} {ses : Session} {st : Stage} (hl : s.liveAt i = some (ses, st)) (c : CellIx)
    (vs : List Handle) (need reserved : Nat) : Timely s (s.promote c i ses vs need reserved) := by
  have hfree : Timely s ((s.subR c (reserved + need)).unbindAll vs) := (Timely.modCell ..).trans (.unbindAll ..)
  obtain ⟨st', hl'⟩ := State.unbindAll_live (s := s.subR c (reserved + need)) vs hl
  have hset := Timely.setLive hl' (st' := setupStage s.tick ses) (hfree.tick ▸ setupStage_timely st' _ ses)
  exact ((hfree.trans hset).trans (.countSetup ..)).trans (.raiseSession ..)

theorem Timely.passUnits (s : State) (c : CellIx) (victim : Handle) (v : Nat) (b : Handle) :
    Timely s (s.passUnits c victim v b) := by
  unfold State.passUnits
  split
  · next ses victims need reserved collected hl =>
    split
    · dsimp only
      let left := victims.filter fun h => decide (h ≠ victim)
      let take := min v (need - collected)
      have hpassed : Timely s ((s.addR c take).setLive b.index ses (.held left need reserved (collected + take))) :=
        (Timely.modCell ..).trans (.setLive (s := s.addR c take) hl (.inl rfl))
      have hlive : ((s.addR c take).setLive b.index ses (.held left need reserved (collected + take))).liveAt b.index
          = some (ses, .held left need reserved (collected + take)) := by
        rw [State.liveAt_setLive, if_pos rfl]
      split
      · exact hpassed.trans (.promote hlive ..)
      · exact hpassed
    · exact .refl s
  · exact .refl s

theorem Timely.victimExit (s : State) (i : Nat) (ses : Session) (b : Option Handle) : Timely s (s.victimExit i ses b) := by
  unfold State.victimExit
  cases b with
  | none => exact (Timely.modCell ..).trans (.recompute ..)
  | some b => exact ((Timely.modCell ..).trans (.passUnits ..)).trans (.recompute ..)

theorem Timely.giveUp (s : State) (i : Nat) (ses : Session) (st : Stage) : Timely s (s.giveUp i ses st) := by
  cases st with
  | queued => exact .refl s
  | held vs need reserved collected =>
    have hfree : Timely s ((s.subR ses.key.cell (reserved + collected)).unbindAll vs) := (Timely.modCell ..).trans (.unbindAll ..)
    show Timely s (s.withdrawHeld ses vs reserved collected)
    unfold State.withdrawHeld
    dsimp only
    split
    · exact hfree
    · exact hfree.trans (.recompute ..)
  | setup | active => exact (Timely.modCell ..).trans (.recompute ..)
  | ceding stamp b deadline => exact .victimExit s i ses b

/-- A retired record is live no more. -/
theorem State.retire_gone (s : State) (i : Nat) : (s.retire i).liveAt i = none := by
  cases hl : s.liveAt i with
  | none => simp [State.retire, hl]
  | some x =>
    obtain ⟨⟨hself, -⟩, -⟩ := State.retire_retiredFrom s i x.1 x.2 hl
    unfold State.liveAt
    rw [hself]
    cases (s.record i).pending <;> rfl

theorem Timely.retire (s : State) (i : Nat) : Timely s (s.retire i) := by
  have hq := (still_retire s i).quiet
  refine ⟨hq.tick, congrArg Background.supervision hq.1, fun p => ?_, fun j ses st hj => ?_⟩
  · rw [show (s.retire i).port p = s.port p by unfold State.port; rw [(Unnoticed.retire s i).ports]]
    exact .refl _ _
  · have hij : j ≠ i := by
      rintro rfl
      rw [State.retire_gone] at hj
      cases hj
    cases hl : s.liveAt i with
    | none => exact ⟨st, by simpa [State.retire, hl] using hj, .inl rfl⟩
    | some x =>
      obtain ⟨-, hkept, -⟩ := State.retire_retiredFrom s i x.1 x.2 hl
      refine ⟨st, ?_, .inl rfl⟩
      unfold State.liveAt at hj ⊢
      rwa [hkept j (by simpa using hij)] at hj

theorem Timely.serveHead {s : State} {i : Nat} {ses : Session} {st : Stage} (hl : s.liveAt i = some (ses, st)) (c : CellIx) :
    Timely s (s.serveHead c i ses) :=
  ((((Timely.modCell ..).trans (.setLive (s := s.leaveQueue c i) hl (setupStage_timely ..))).trans (.countSetup ..)).trans
    (.raiseSession ..)).trans (.recompute ..)

theorem Timely.holdHead {s : State} {i : Nat} {ses : Session} {st : Stage} (hl : s.liveAt i = some (ses, st)) (c : CellIx)
    (vs : List Nat) : Timely s (s.holdHead c i ses vs) := by
  have hvictims : Timely s ((s.leaveQueue c i).takeVictims (s.handleOf i) c vs) := (Timely.modCell ..).trans (.takeVictims ..)
  obtain ⟨st', hl'⟩ := State.takeVictims_live (s := s.leaveQueue c i) (s.handleOf i) c vs hl
  exact ((hvictims.trans (.setLive hl' (.inr (.inl rfl)))).trans (.modCell ..)).trans (.recompute ..)

/-- An entry that leaves the backlog makes no record live and changes none that is. -/
theorem State.dropEntry_liveAt (s : State) (e : BacklogEntry) (i : Nat) : (s.dropEntry e).liveAt i = s.liveAt i := by
  cases e with
  | cell c => rfl
  | record j =>
    show (s.dropPending j).liveAt i = _
    unfold State.liveAt
    rw [State.dropPending_record]
    by_cases h : i = j
    · rw [if_pos h, h]
      by_cases hspent : (s.record j).life = .spent
      · simp [hspent]
      · simp [hspent]
    · rw [if_neg h]

theorem State.dropEntries_liveAt (s : State) (es : List BacklogEntry) (i : Nat) : (s.dropEntries es).liveAt i = s.liveAt i := by
  unfold State.dropEntries
  induction es generalizing s with
  | nil => rfl
  | cons e rest ih => exact (ih _).trans (s.dropEntry_liveAt e i)

theorem Timely.enterDraining (s : State) (p : PortIx) : Timely s (s.enterDraining p) := by
  have hturned : Timely s (s.turnAway p) := .modPort _ _ ⟨rfl, rfl, id, .inl rfl⟩
  have hq := (still_dropEntries ((s.turnAway p).port p).backlog (s.turnAway p)).quiet
  have hdropped : Timely (s.turnAway p) ((s.turnAway p).dropEntries ((s.turnAway p).port p).backlog) := by
    refine ⟨hq.tick, congrArg Background.supervision hq.1, fun o => ?_, fun i ses st h => ?_⟩
    · rw [State.dropEntries_port]
      exact .refl _ _
    · rw [State.dropEntries_liveAt] at h
      exact ⟨st, h, .inl rfl⟩
  have hcleared : Timely (s.turnAway p) ((s.turnAway p).clearNotices p) :=
    hdropped.trans (.modPort _ _ ⟨rfl, rfl, id, .inr (.inl rfl)⟩)
  have hentered : Timely s (((s.turnAway p).clearNotices p).modPort p fun q => { q with state := .draining, drainFlag := true }) :=
    (hturned.trans hcleared).trans (.modPort _ _ ⟨rfl, rfl, (nomatch ·), .inl rfl⟩)
  rw [State.enterDraining_eq]
  exact hentered.trans (.of_same rfl rfl rfl fun _ => rfl)

theorem Timely.endJob (s : State) : Timely s s.endJob := .of_same rfl rfl rfl fun _ => rfl

/-- Every event that a tick takes makes nothing due. -/
theorem keepsTimed_timely (s : State) : KeepsTimed (Timely s) where
  raised i kind cause h := h.trans (.raiseSession ..)
  retired h _ ht := by
    rcases ht with rfl | ⟨kind, cause, rfl⟩
    · exact (h.trans (.giveUp ..)).trans (.retire ..)
    · exact ((h.trans (.giveUp ..)).trans (.raiseSession ..)).trans (.retire ..)
  served h _ hl := h.trans (.serveHead hl _)
  heldHead h _ hl _ _ := h.trans (.holdHead hl ..)
  expired h _ := (h.trans (.enterDraining ..)).trans (.of_same rfl rfl rfl fun _ => rfl)
  pulseEnded h _ := h.trans (.modPort _ _ ⟨rfl, rfl, id, .inr (.inl rfl)⟩)
  begun {u j} h _ _ := by
    cases j with
    | portDrain p =>
      have hflag : Timely u (u.modPort p fun q => { q with drainFlag := false }) := .modPort _ _ ⟨rfl, rfl, id, .inl rfl⟩
      exact (h.trans hflag).trans (.of_same rfl rfl rfl fun _ => rfl)
    | cellDrain c => exact h.trans (.of_same rfl rfl rfl fun _ => rfl)
  cellDrained h _ _ := (h.trans (.closeCell ..)).trans (.endJob _)
  portDrained {u p} h _ _ := by
    have hdown : Timely u (u.modPort p fun q => { q with state := .down }) := .modPort _ _ ⟨rfl, rfl, (nomatch ·), .inl rfl⟩
    exact (h.trans hdown).trans (.endJob _)

/-! ### What is due after them -/

/-- A deadline is not met at the tick it forms at (R114). -/
theorem after_ne {now : Tick} {n : Nat} (h1 : 1 ≤ n) (h2 : n ≤ 65535) : after now n ≠ now := by
  unfold after
  have hn : (BitVec.ofNat 32 n).toNat = n := by
    rw [BitVec.toNat_ofNat]
    omega
  generalize BitVec.ofNat 32 n = x at hn
  bv_omega

theorem Timely.durations {s t : State} (h : Timely s t) (hs : s.durationsInRange) : t.durationsInRange := by
  refine ⟨fun i ses st hl => ?_, fun p => ?_⟩
  · obtain ⟨st', hl', -⟩ := h.live i ses st hl
    exact hs.1 i ses st' hl'
  · rw [(h.ports p).width]
    exact hs.2 p

/-- A deadline met now was met before the change. -/
theorem Timely.deadlineAt {s t : State} (h : Timely s t) (hs : s.durationsInRange) {i k : Nat}
    (hd : t.deadlineAt i = some (t.tick, k)) : s.deadlineAt i = some (s.tick, k) := by
  unfold State.deadlineAt at hd
  split at hd
  · next ses st' hl =>
    obtain ⟨st, hl', hst⟩ := h.live i ses st' hl
    rw [h.tick] at hd
    rcases hst with hsame | hnone | ⟨n, kind, hn, hfresh⟩
    · unfold State.deadlineAt
      rw [hl', ← hd, hsame]
    · rw [hnone] at hd
      cases hd
    · obtain ⟨hgrace, hgrace', hguard⟩ := hs.1 i ses st hl'
      rw [hfresh] at hd
      have hmet : after s.tick n = s.tick := congrArg Prod.fst (Option.some.inj hd)
      exact absurd hmet (after_ne (by omega) (by omega))
  · cases hd

/-- A change that makes nothing due, with durations in their ranges, leaves what is not due not due. -/
theorem Timely.undue {s t : State} (h : Timely s t) (hs : s.durationsInRange) {e : Expiry} (he : happens e.command s = false) :
    happens e.command t = false := by
  cases e with
  | setupGuard i => exact decide_eq_false fun hd => of_decide_eq_false he (h.deadlineAt hs hd)
  | grace i => exact decide_eq_false fun hd => of_decide_eq_false he (h.deadlineAt hs hd)
  | wait i => exact decide_eq_false fun hd => of_decide_eq_false he (h.deadlineAt hs hd)
  | supervision p =>
    have hports := h.ports p
    have heq : t.supervisionDue p = true → s.supervisionDue p = true := by
      unfold State.supervisionDue State.watched
      rw [hports.timestamp, h.tick, h.supervision]
      simp only [Bool.and_eq_true, decide_eq_true_eq]
      exact fun ⟨⟨hup, hs0⟩, hage⟩ => ⟨⟨hports.up hup, hs0⟩, hage⟩
    exact Bool.eq_false_iff.2 fun ht => Bool.eq_false_iff.1 he (heq ht)
  | pulse p =>
    have hports := h.ports p
    refine decide_eq_false fun hd => of_decide_eq_false he ?_
    rw [h.tick] at hd
    rcases hports.pulse with hsame | hnone | hfresh
    · rw [← hsame]
      exact hd
    · rw [hnone] at hd
      cases hd
    · rw [hfresh] at hd
      obtain ⟨h1, h255⟩ := hs.2 p
      exact absurd (Option.some.inj hd) (after_ne h1 (by omega))

/-- A record that an expiry retires has no deadline any more. -/
theorem Timely.retired_undue {s t : State} {i : Nat} (h : Timely (s.retire i) t) : t.deadlineAt i = none := by
  unfold State.deadlineAt
  cases hl : t.liveAt i with
  | none => rfl
  | some x =>
    obtain ⟨st, hl', -⟩ := h.live i x.1 x.2 hl
    rw [State.retire_gone] at hl'
    cases hl'

/-- An event that is not due is not taken. -/
theorem State.take_of_undue {s : State} {e : Expiry} (h : happens e.command s = false) : s.take e = s := by
  obtain ⟨t, ht, hidle⟩ := exec_completes e.command s
  rw [State.exec_take] at ht
  cases ht
  exact hidle h

/-- The deadlines that the record expiries meet (R115). -/
theorem State.deadlineAt_eq_some {s : State} {i k : Nat} {d : Tick} (h : s.deadlineAt i = some (d, k)) :
    ∃ ses st, s.liveAt i = some (ses, st) ∧ st.deadline? = some (d, k) := by
  unfold State.deadlineAt at h
  split at h
  · next ses st hl => exact ⟨ses, st, hl, h⟩
  · cases h

/-- What is taken is due no more. -/
theorem State.take_undue (s : State) (e : Expiry) : happens e.command (s.take e) = false := by
  cases hs : happens e.command s with
  | false => rw [State.take_of_undue hs, hs]
  | true =>
    cases e with
    | setupGuard i =>
      obtain ⟨ses, st, hl, hst⟩ := State.deadlineAt_eq_some (of_decide_eq_true hs)
      have hgone : (s.take (.setupGuard i)).deadlineAt i = none := by
        cases st <;> simp [Stage.deadline?] at hst
        next stamp guard =>
          show (s.atSetupGuard i).deadlineAt i = none
          rw [State.atSetupGuard, hl, hst]
          dsimp only
          rw [if_pos rfl]
          exact ((keepsTimed_timely _).servicePass (.refl _) _).retired_undue
      exact decide_eq_false (by rw [hgone]; simp)
    | grace i =>
      obtain ⟨ses, st, hl, hst⟩ := State.deadlineAt_eq_some (of_decide_eq_true hs)
      have hgone : (s.take (.grace i)).deadlineAt i = none := by
        cases st <;> simp [Stage.deadline?] at hst
        next stamp b deadline =>
          show (s.atGrace i).deadlineAt i = none
          rw [State.atGrace, hl]
          dsimp only
          rw [if_pos hst]
          exact ((keepsTimed_timely _).serviceWhen (.refl _) _ _).retired_undue
      exact decide_eq_false (by rw [hgone]; simp)
    | wait i =>
      obtain ⟨ses, st, hl, hst⟩ := State.deadlineAt_eq_some (of_decide_eq_true hs)
      have hgone : (s.take (.wait i)).deadlineAt i = none := by
        cases st <;> simp [Stage.deadline?] at hst
        next arrival va deadline =>
          show (s.atWait i).deadlineAt i = none
          rw [State.atWait, hl]
          dsimp only
          rw [if_pos hst]
          exact ((keepsTimed_timely _).serviceWhen (.refl _) _ _).retired_undue
      exact decide_eq_false (by rw [hgone]; simp)
    | supervision p =>
      have hdown : (((s.enterDraining p).raiseEvent (portDownEvent p)).port p).state = .draining := by
        rw [State.enterDraining_eq, State.raiseEvent_port, State.chooseJob_port, State.port_modPort_self]
      have htaken : s.take (.supervision p) = s.expirePort p := if_pos hs
      show (s.take (.supervision p)).supervisionDue p = false
      rw [htaken, State.supervisionDue, State.watched, State.expirePort, hdown]
      rfl
    | pulse p =>
      have htaken : s.take (.pulse p) = s.modPort p Port.endPulse := if_pos hs
      show ((s.take (.pulse p)).port p).pulseDue _ = false
      rw [htaken, State.port_modPort_self]
      rfl

/-- Once all that was due has been taken, nothing is due. -/
theorem State.takeAll_undue {s : State} (hs : s.durationsInRange) {es : List Expiry} {e : Expiry}
    (he : e ∈ es ∨ happens e.command s = false) : happens e.command (es.foldl State.take s) = false := by
  induction es generalizing s with
  | nil => exact he.resolve_left (List.not_mem_nil)
  | cons a es ih =>
    have htimely : Timely s (s.take a) := (keepsTimed_timely s).take (.refl s) a
    refine ih (htimely.durations hs) ?_
    by_cases ha : e = a
    · exact .inr (ha ▸ s.take_undue a)
    · exact he.imp (fun h => (List.mem_cons.1 h).resolve_left ha) fun h => htimely.undue hs h

/-! ### The tick -/

theorem exec_tick_of_settled {s : State} (h : s.settled) : exec .tick s = .next { s with tick := s.tick + 1 } := by
  have hdue : s.due = [] := by
    rw [List.eq_nil_iff_forall_not_mem]
    intro e he
    rw [State.mem_due, h.1 e] at he
    cases he
  show execTick s = _
  unfold execTick
  rw [hdue]
  dsimp only [openOrder, List.foldl_nil]
  rw [State.startDrains_of_idle h.2]
  rfl

/-- Ticks at which nothing is due advance the tick and nothing else (R113). -/
theorem State.afterTicks_settled {s : State} {n : Nat} (h : ∀ m t, m < n → s.afterTicks m = some t → t.settled) :
    ∃ t, s.afterTicks n = some t ∧ t.tick = s.tick + BitVec.ofNat 32 n ∧ { t with tick := s.tick } = s := by
  induction n with
  | zero => exact ⟨s, rfl, (BitVec.add_zero _).symm, rfl⟩
  | succ n ih =>
    obtain ⟨t, ht, htick, hrest⟩ := ih fun m u hm hu => h m u (Nat.lt_succ_of_lt hm) hu
    refine ⟨{ t with tick := t.tick + 1 }, ?_, ?_, hrest⟩
    · unfold State.afterTicks
      rw [ht]
      dsimp only
      rw [exec_tick_of_settled (h n t (Nat.lt_succ_self n) ht)]
    · show t.tick + 1 = _
      rw [htick, BitVec.ofNat_add, ← BitVec.add_assoc]
      rfl

/-- A deadline is met after exactly its duration, and is later than the tick until then (R114). -/
theorem tick_meets_deadline (now : Tick) {n d : Nat} (hd : d ≤ 65535) (hn : n ≤ d) :
    (now + BitVec.ofNat 32 n = after now d ↔ n = d) ∧ (n < d → earlier (now + BitVec.ofNat 32 n) (after now d) = true) := by
  have hn' : (BitVec.ofNat 32 n).toNat = n := by
    rw [BitVec.toNat_ofNat]
    omega
  have hd' : (BitVec.ofNat 32 d).toNat = d := by
    rw [BitVec.toNat_ofNat]
    omega
  unfold after earlier
  generalize BitVec.ofNat 32 n = x at hn'
  generalize BitVec.ofNat 32 d = y at hd'
  subst hn'
  subst hd'
  constructor
  · constructor
    · intro h
      bv_omega
    · intro h
      rw [BitVec.eq_of_toNat_eq h]
  · intro h
    rw [decide_eq_true_eq]
    bv_omega

/-- Settles O13, by what the events of a tick leave due. -/
theorem ticksMeetADeadlineOnce : Obligations.TicksMeetADeadlineOnce := by
  unfold Obligations.TicksMeetADeadlineOnce
  refine ⟨fun s h => exec_tick_of_settled h, fun s hs => ?_, fun s n d _ hd hn h => ?_⟩
  · have hperm := openOrder_perm s.freeDraws s.due
    refine ⟨openOrder s.freeDraws s.due, ((openOrder s.freeDraws s.due).foldl State.take s).startDrains 20, _,
      hperm.nodup_iff.2 (s.due_nodup hs), fun e => hperm.mem_iff.trans (s.mem_due e), ?_, rfl, rfl, rfl, fun hrange e => ?_⟩
    · rw [State.runs_take, State.runs_start]
    · have htimely := (keepsTimed_timely s).taken (.refl s) (openOrder s.freeDraws s.due) 0
      have hstarted := (keepsTimed_timely ((openOrder s.freeDraws s.due).foldl State.take s)).startDrains (.refl _) 20
      refine hstarted.undue (Timely.durations htimely hrange) (State.takeAll_undue hrange ?_)
      rw [hperm.mem_iff, State.mem_due]
      cases happens e.command s <;> simp
  · obtain ⟨t, ht, htick, hrest⟩ := State.afterTicks_settled h
    exact ⟨t, ht, htick, hrest, htick ▸ tick_meets_deadline s.tick hd hn⟩

end Sys2Proof.Machine
end

section
/-! The books of the cells: what the counters, the queue and the rank list of each cell have to be for given live records, and
how they follow a record that leaves the live states or enters them (2.3, 2.5, 4.1). -/

namespace Sys2Proof.Machine


/-! ### Figures of one record -/

/-- The live record at an index, with its stage, or none. -/
abbrev Live := Option (Session × Stage)

/-- What a record counts at a cell. -/
def Live.figure (x : Live) (c : CellIx) (f : Session → Stage → Nat) : Nat :=
  match x with
  | some (ses, st) => if ses.key.cell = c then f ses st else 0
  | none => 0

/-- The record waits in the queue of a cell. -/
def Live.waits (x : Live) (c : CellIx) : Prop := ∃ ses st, x = some (ses, st) ∧ ses.key.cell = c ∧ st.isQueued = true

/-- The record stands on the rank list of a cell (R36). -/
def Live.ranks (x : Live) (c : CellIx) : Prop :=
  ∃ ses st, x = some (ses, st) ∧ ses.key.cell = c ∧ st.isAdmitted = true ∧ ses.vulnerable = true

def Live.urgent (x : Live) : Bool :=
  match x with
  | some (ses, _) => ses.emergency
  | none => false

def Live.level (x : Live) : Nat :=
  match x with
  | some (ses, _) => ses.level
  | none => 0

def Live.demand (x : Live) : Nat :=
  match x with
  | some (ses, _) => ses.demand
  | none => 0

/-! ### The books of a cell -/

/-- The counters and lists of a cell. -/
structure Account where
  countA : Nat
  countC : Nat
  countR : Nat
  queue : List Nat
  enqueueOrder : List Nat
  rankList : List Nat

def Cell.account (k : Cell) : Account where
  countA := k.countA
  countC := k.countC
  countR := k.countR
  queue := k.queue
  enqueueOrder := k.enqueueOrder
  rankList := k.rankList

/-- What the records below a bound count at a cell. -/
def total (n : Nat) (live : Nat → Live) (c : CellIx) (f : Session → Stage → Nat) : Nat :=
  ∑ i ∈ Finset.range n, (live i).figure c f

/-- The account of a cell is that of the live records (R30, R36, R70, R71). -/
structure Booked (n : Nat) (live : Nat → Live) (c : CellIx) (k : Account) : Prop where
  countA : k.countA = total n live c countsA
  countC : k.countC = total n live c countsC
  countR : k.countR = total n live c countsR
  queueNodup : k.queue.Nodup
  order : k.enqueueOrder.Perm k.queue
  queued : ∀ i, i ∈ k.queue ↔ (live i).waits c
  urgentFirst : k.queue.Pairwise fun i j => (live j).urgent = true → (live i).urgent = true
  rankNodup : k.rankList.Nodup
  ranked : ∀ i, i ∈ k.rankList ↔ (live i).ranks c
  levels : k.rankList.Pairwise fun i j => (live i).level ≤ (live j).level

/-! ### A record that leaves or enters -/

/-- The total with the record at an index replaced. -/
theorem total_update {n i : Nat} (hi : i < n) (live : Nat → Live) (x : Live) (c : CellIx) (f : Session → Stage → Nat) :
    total n (Function.update live i x) c f + (live i).figure c f = total n live c f + x.figure c f := by
  have hmem : i ∈ Finset.range n := Finset.mem_range.2 hi
  unfold total
  rw [← Finset.add_sum_erase _ _ hmem, ← Finset.add_sum_erase _ _ hmem, Function.update_self]
  have hrest : ∑ j ∈ (Finset.range n).erase i, (Function.update live i x j).figure c f
      = ∑ j ∈ (Finset.range n).erase i, (live j).figure c f :=
    Finset.sum_congr rfl fun j hj => by rw [Function.update_of_ne (Finset.ne_of_mem_erase hj)]
  rw [hrest]
  omega

section
variable {n i : Nat} {live live' : Nat → Live} {c : CellIx} {k k' : Account} {ses : Session} {st : Stage}

theorem Live.figure_some (hc : ses.key.cell = c) (f : Session → Stage → Nat) : Live.figure (some (ses, st)) c f = f ses st :=
  if_pos hc

theorem Live.figure_elsewhere (hc : ses.key.cell ≠ c) (f : Session → Stage → Nat) : Live.figure (some (ses, st)) c f = 0 :=
  if_neg hc

theorem Live.waits_some : Live.waits (some (ses, st)) c ↔ ses.key.cell = c ∧ st.isQueued = true := by
  constructor
  · rintro ⟨_, _, ⟨⟩, h⟩
    exact h
  · exact fun h => ⟨ses, st, rfl, h⟩

theorem Live.ranks_some :
    Live.ranks (some (ses, st)) c ↔ ses.key.cell = c ∧ st.isAdmitted = true ∧ ses.vulnerable = true := by
  constructor
  · rintro ⟨_, _, ⟨⟩, h⟩
    exact h
  · exact fun h => ⟨ses, st, rfl, h⟩

theorem Live.not_waits_none : ¬ Live.waits none c := by rintro ⟨_, _, h, -⟩; cases h

theorem Live.not_ranks_none : ¬ Live.ranks none c := by rintro ⟨_, _, h, -⟩; cases h

/-- The account of a cell when a record leaves the live states. -/
def Account.remove (k : Account) (i : Nat) (ses : Session) (st : Stage) : Account where
  countA := k.countA - countsA ses st
  countC := k.countC - countsC ses st
  countR := k.countR - countsR ses st
  queue := k.queue.filter fun j => decide (j ≠ i)
  enqueueOrder := k.enqueueOrder.filter fun j => decide (j ≠ i)
  rankList := k.rankList.filter fun j => decide (j ≠ i)

/-- A list without one index, as an erasure. -/
theorem filter_ne_eq_erase {l : List Nat} (h : l.Nodup) (i : Nat) : l.filter (fun j => decide (j ≠ i)) = l.erase i := by
  rw [h.erase_eq_filter]
  exact List.filter_congr fun j _ => by simp [bne, Bool.beq_eq_decide_eq]

/-- A list without one index, by what its members are. -/
theorem mem_filter_update {l : List Nat} {p : Live → Prop} (h : ∀ j, j ∈ l ↔ p (live j)) (hnone : ¬ p none) (j : Nat) :
    j ∈ l.filter (fun j => decide (j ≠ i)) ↔ p (Function.update live i none j) := by
  rw [List.mem_filter, decide_eq_true_eq, h]
  by_cases hj : j = i
  · subst hj
    rw [Function.update_self]
    exact iff_of_false (fun h => h.2 rfl) hnone
  · rw [Function.update_of_ne hj]
    exact and_iff_left hj

theorem pairwise_filter_update {l : List Nat} {r : Live → Live → Prop} (h : l.Pairwise fun a b => r (live a) (live b))
    (x : Live) :
    (l.filter fun j => decide (j ≠ i)).Pairwise fun a b => r (Function.update live i x a) (Function.update live i x b) := by
  refine (h.filter _).imp_of_mem fun {a b} ha hb hab => ?_
  rw [Function.update_of_ne (of_decide_eq_true (List.mem_filter.1 ha).2),
    Function.update_of_ne (of_decide_eq_true (List.mem_filter.1 hb).2)]
  exact hab

/-- The books follow a record that leaves the live states. -/
theorem Booked.remove (h : Booked n live c k) (hi : i < n) (hl : live i = some (ses, st)) (hc : ses.key.cell = c) :
    Booked n (Function.update live i none) c (k.remove i ses st) := by
  have hcount (f : Session → Stage → Nat) : total n (Function.update live i none) c f = total n live c f - f ses st := by
    have := total_update hi live none c f
    rw [hl, Live.figure_some hc, show Live.figure none c f = 0 from rfl] at this
    omega
  exact {
    countA := by rw [hcount, ← h.countA]; rfl
    countC := by rw [hcount, ← h.countC]; rfl
    countR := by rw [hcount, ← h.countR]; rfl
    queueNodup := h.queueNodup.filter _
    order := h.order.filter _
    queued := mem_filter_update (p := (Live.waits · c)) h.queued Live.not_waits_none
    urgentFirst := pairwise_filter_update (r := fun x y => y.urgent = true → x.urgent = true) h.urgentFirst none
    rankNodup := h.rankNodup.filter _
    ranked := mem_filter_update (p := (Live.ranks · c)) h.ranked Live.not_ranks_none
    levels := pairwise_filter_update (r := fun x y => x.level ≤ y.level) h.levels none }

/-- The account of a cell when a record enters the live states: what it counts is added, and it takes a place in the queue or on
the rank list when its stage calls for one. -/
structure Account.Adds (live : Nat → Live) (k k' : Account) (i : Nat) (ses : Session) (st : Stage) : Prop where
  countA : k'.countA = k.countA + countsA ses st
  countC : k'.countC = k.countC + countsC ses st
  countR : k'.countR = k.countR + countsR ses st
  queued : st.isQueued = true → k'.queue.Perm (i :: k.queue) ∧ k'.enqueueOrder.Perm (i :: k.enqueueOrder)
    ∧ k'.queue.Pairwise fun a b => (Function.update live i (some (ses, st)) b).urgent = true →
      (Function.update live i (some (ses, st)) a).urgent = true
  unqueued : st.isQueued = false → k'.queue = k.queue ∧ k'.enqueueOrder = k.enqueueOrder
  ranked : st.isAdmitted = true ∧ ses.vulnerable = true → k'.rankList.Perm (i :: k.rankList)
    ∧ k'.rankList.Pairwise fun a b => (Function.update live i (some (ses, st)) a).level
      ≤ (Function.update live i (some (ses, st)) b).level
  unranked : ¬ (st.isAdmitted = true ∧ ses.vulnerable = true) → k'.rankList = k.rankList

/-- The members of a list that an index joins. -/
theorem mem_cons_update {l l' : List Nat} {p : Live → Prop} (h : ∀ j, j ∈ l ↔ p (live j)) {x : Live} (hx : p x)
    (hperm : l'.Perm (i :: l)) (j : Nat) : j ∈ l' ↔ p (Function.update live i x j) := by
  rw [hperm.mem_iff, List.mem_cons]
  by_cases hj : j = i
  · subst hj
    rw [Function.update_self]
    exact iff_of_true (.inl rfl) hx
  · rw [Function.update_of_ne hj, h]
    exact or_iff_right hj

/-- The members of a list that an index stays out of. -/
theorem mem_update_of_not {l : List Nat} {p : Live → Prop} (h : ∀ j, j ∈ l ↔ p (live j)) {x : Live} (hx : ¬ p x)
    (hi : i ∉ l) (j : Nat) : j ∈ l ↔ p (Function.update live i x j) := by
  by_cases hj : j = i
  · subst hj
    rw [Function.update_self]
    exact iff_of_false hi hx
  · rw [Function.update_of_ne hj]
    exact h j

theorem pairwise_update_of_not {l : List Nat} {r : Live → Live → Prop} (h : l.Pairwise fun a b => r (live a) (live b))
    (x : Live) (hi : i ∉ l) : l.Pairwise fun a b => r (Function.update live i x a) (Function.update live i x b) := by
  refine h.imp_of_mem fun {a b} ha hb hab => ?_
  rw [Function.update_of_ne fun he : a = i => hi (he ▸ ha), Function.update_of_ne fun he : b = i => hi (he ▸ hb)]
  exact hab

/-- The books follow a record that enters the live states. -/
theorem Booked.add (h : Booked n live c k) (hi : i < n) (hl : live i = none) (hc : ses.key.cell = c)
    (hk : Account.Adds live k k' i ses st) : Booked n (Function.update live i (some (ses, st))) c k' := by
  have hcount (f : Session → Stage → Nat) :
      total n (Function.update live i (some (ses, st))) c f = total n live c f + f ses st := by
    have := total_update hi live (some (ses, st)) c f
    rw [hl, Live.figure_some hc, show Live.figure none c f = 0 from rfl] at this
    omega
  have hnew : i ∉ k.queue := fun hm => Live.not_waits_none (c := c) (hl ▸ (h.queued i).1 hm)
  have hnewRank : i ∉ k.rankList := fun hm => Live.not_ranks_none (c := c) (hl ▸ (h.ranked i).1 hm)
  have hqueue : k'.queue.Nodup ∧ k'.enqueueOrder.Perm k'.queue
      ∧ (∀ j, j ∈ k'.queue ↔ (Function.update live i (some (ses, st)) j).waits c)
      ∧ k'.queue.Pairwise fun a b => (Function.update live i (some (ses, st)) b).urgent = true →
        (Function.update live i (some (ses, st)) a).urgent = true := by
    cases hst : st.isQueued with
    | true =>
      obtain ⟨hperm, horder, hurgent⟩ := hk.queued hst
      exact ⟨hperm.nodup_iff.2 (List.nodup_cons.2 ⟨hnew, h.queueNodup⟩), (horder.trans (h.order.cons i)).trans hperm.symm,
        mem_cons_update (p := (Live.waits · c)) h.queued (Live.waits_some.2 ⟨hc, hst⟩) hperm, hurgent⟩
    | false =>
      obtain ⟨hsame, horder⟩ := hk.unqueued hst
      rw [hsame, horder]
      have hout : ¬ Live.waits (some (ses, st)) c := fun hw => by simp [(Live.waits_some.1 hw).2] at hst
      exact ⟨h.queueNodup, h.order, mem_update_of_not (p := (Live.waits · c)) h.queued hout hnew,
        pairwise_update_of_not (r := fun x y => y.urgent = true → x.urgent = true) h.urgentFirst _ hnew⟩
  have hrank : k'.rankList.Nodup ∧ (∀ j, j ∈ k'.rankList ↔ (Function.update live i (some (ses, st)) j).ranks c)
      ∧ k'.rankList.Pairwise fun a b => (Function.update live i (some (ses, st)) a).level
        ≤ (Function.update live i (some (ses, st)) b).level := by
    by_cases hst : st.isAdmitted = true ∧ ses.vulnerable = true
    · obtain ⟨hperm, hlevels⟩ := hk.ranked hst
      exact ⟨hperm.nodup_iff.2 (List.nodup_cons.2 ⟨hnewRank, h.rankNodup⟩),
        mem_cons_update (p := (Live.ranks · c)) h.ranked (Live.ranks_some.2 ⟨hc, hst⟩) hperm, hlevels⟩
    · rw [hk.unranked hst]
      have hout : ¬ Live.ranks (some (ses, st)) c := fun hr => hst (Live.ranks_some.1 hr).2
      exact ⟨h.rankNodup, mem_update_of_not (p := (Live.ranks · c)) h.ranked hout hnewRank,
        pairwise_update_of_not (r := fun x y => x.level ≤ y.level) h.levels _ hnewRank⟩
  obtain ⟨hqn, hqo, hqm, hqu⟩ := hqueue
  obtain ⟨hrn, hrm, hrl⟩ := hrank
  exact ⟨by rw [hcount, ← h.countA, hk.countA], by rw [hcount, ← h.countC, hk.countC], by rw [hcount, ← h.countR, hk.countR],
    hqn, hqo, hqm, hqu, hrn, hrm, hrl⟩

/-- The books of a cell do not see a record of another cell leave or enter. -/
theorem Booked.elsewhere (h : Booked n live c k) (hi : i < n) {x : Live}
    (hold : ∀ ses st, live i = some (ses, st) → ses.key.cell ≠ c) (hnew : ∀ ses st, x = some (ses, st) → ses.key.cell ≠ c) :
    Booked n (Function.update live i x) c k := by
  have hfigure (y : Live) (hy : ∀ ses st, y = some (ses, st) → ses.key.cell ≠ c) (f : Session → Stage → Nat) :
      y.figure c f = 0 := by
    cases y with
    | none => rfl
    | some z => exact Live.figure_elsewhere (hy z.1 z.2 rfl) f
  have hcount (f : Session → Stage → Nat) : total n (Function.update live i x) c f = total n live c f := by
    have := total_update hi live x c f
    rw [hfigure _ hold, hfigure _ hnew] at this
    omega
  have hwaits {y : Live} (hy : ∀ ses st, y = some (ses, st) → ses.key.cell ≠ c) : ¬ y.waits c := by
    rintro ⟨ses, st, he, hc, -⟩
    exact hy ses st he hc
  have hranks {y : Live} (hy : ∀ ses st, y = some (ses, st) → ses.key.cell ≠ c) : ¬ y.ranks c := by
    rintro ⟨ses, st, he, hc, -⟩
    exact hy ses st he hc
  have hq : i ∉ k.queue := fun hm => hwaits hold ((h.queued i).1 hm)
  have hr : i ∉ k.rankList := fun hm => hranks hold ((h.ranked i).1 hm)
  exact ⟨by rw [hcount]; exact h.countA, by rw [hcount]; exact h.countC, by rw [hcount]; exact h.countR, h.queueNodup, h.order,
    mem_update_of_not (p := (Live.waits · c)) h.queued (hwaits hnew) hq,
    pairwise_update_of_not (r := fun x y => y.urgent = true → x.urgent = true) h.urgentFirst _ hq, h.rankNodup,
    mem_update_of_not (p := (Live.ranks · c)) h.ranked (hranks hnew) hr,
    pairwise_update_of_not (r := fun x y => x.level ≤ y.level) h.levels _ hr⟩

/-! ### A record that the books see as before -/

/-- The books of no cell tell two records apart. -/
structure Live.Alike (x y : Live) : Prop where
  countA : ∀ c, y.figure c countsA = x.figure c countsA
  countC : ∀ c, y.figure c countsC = x.figure c countsC
  countR : ∀ c, y.figure c countsR = x.figure c countsR
  waits : ∀ c, y.waits c ↔ x.waits c
  ranks : ∀ c, y.ranks c ↔ x.ranks c
  urgent : y.urgent = x.urgent
  level : y.level = x.level

theorem Live.Alike.refl (x : Live) : x.Alike x := ⟨fun _ => rfl, fun _ => rfl, fun _ => rfl, fun _ => .rfl, fun _ => .rfl, rfl, rfl⟩

/-- Two sessions that differ in tags, terminal, class or durations alone, in stages that count the same. -/
theorem Live.Alike.of_session {ses' : Session} {st' : Stage} (hcell : ses'.key.cell = ses.key.cell)
    (hemergency : ses'.emergency = ses.emergency) (hvulnerable : ses'.vulnerable = ses.vulnerable) (hlevel : ses'.level = ses.level)
    (hA : countsA ses' st' = countsA ses st) (hC : countsC ses' st' = countsC ses st) (hR : countsR ses' st' = countsR ses st)
    (hqueued : st'.isQueued = st.isQueued) (hadmitted : st'.isAdmitted = st.isAdmitted) :
    Live.Alike (some (ses, st)) (some (ses', st')) := by
  refine ⟨fun c => ?_, fun c => ?_, fun c => ?_, fun c => ?_, fun c => ?_, hemergency, hlevel⟩
  · unfold Live.figure
    dsimp only
    rw [hcell, hA]
  · unfold Live.figure
    dsimp only
    rw [hcell, hC]
  · unfold Live.figure
    dsimp only
    rw [hcell, hR]
  · rw [Live.waits_some, Live.waits_some, hcell, hqueued]
  · rw [Live.ranks_some, Live.ranks_some, hcell, hadmitted, hvulnerable]

theorem Booked.alike (h : Booked n live c k) (ha : ∀ j, (live j).Alike (live' j)) : Booked n live' c k where
  countA := h.countA.trans (Finset.sum_congr rfl fun j _ => ((ha j).countA c).symm)
  countC := h.countC.trans (Finset.sum_congr rfl fun j _ => ((ha j).countC c).symm)
  countR := h.countR.trans (Finset.sum_congr rfl fun j _ => ((ha j).countR c).symm)
  queueNodup := h.queueNodup
  order := h.order
  queued j := (h.queued j).trans ((ha j).waits c).symm
  urgentFirst := h.urgentFirst.imp fun {a b} hab => by rw [(ha a).urgent, (ha b).urgent]; exact hab
  rankNodup := h.rankNodup
  ranked j := (h.ranked j).trans ((ha j).ranks c).symm
  levels := h.levels.imp fun {a b} hab => by rw [(ha a).level, (ha b).level]; exact hab

end

end Sys2Proof.Machine
end

section
/-! The bonds between requesters and their victims (3.6), by index, and how they follow a decision, a victim exit and a
withdrawal. -/

namespace Sys2Proof.Machine

/-! ### Bonds -/

/-- The bond of a record: a requester with what it needs, or a victim with its beneficiary. -/
inductive Bond
  | held (cell : CellIx) (level : Nat) (victims : List Nat) (need collected : Nat)
  | owes (cell : CellIx) (level demand : Nat) (beneficiary : Option Nat)

/-- The units a victim still holds. -/
def Bond.debt (b : Option Bond) : Nat :=
  match b with
  | some (.owes _ _ d _) => d
  | _ => 0

/-- A victim that lost its beneficiary (R61, R64). -/
def Bond.freed (b : Option Bond) : Option Bond :=
  match b with
  | some (.owes c l d _) => some (.owes c l d none)
  | b => b

/-- The victims of a requester cover its need (R55, R56). -/
structure Covers (bonds : Nat → Option Bond) (i : Nat) (c : CellIx) (level : Nat) (victims : List Nat) (need collected : Nat) :
    Prop where
  nonempty : 1 ≤ victims.length
  few : victims.length ≤ 4
  nodup : victims.Nodup
  short : collected < need
  enough : need ≤ collected + (victims.map fun j => Bond.debt (bonds j)).sum
  owing : ∀ j ∈ victims, ∃ l d, bonds j = some (.owes c l d (some i)) ∧ l < level

/-- Requesters and victims are bound in both directions (R56). -/
structure Bonded (bonds : Nat → Option Bond) : Prop where
  held : ∀ i c l vs need collected, bonds i = some (.held c l vs need collected) → Covers bonds i c l vs need collected
  owed : ∀ j c l d i, bonds j = some (.owes c l d (some i)) →
    ∃ c' l' vs need collected, bonds i = some (.held c' l' vs need collected) ∧ j ∈ vs

section
variable {bonds bonds' : Nat → Option Bond} {i j : Nat} {c : CellIx} {l d need collected : Nat} {vs : List Nat}

theorem Covers.congr (h : Covers bonds i c l vs need collected) (hv : ∀ j ∈ vs, bonds' j = bonds j) :
    Covers bonds' i c l vs need collected where
  nonempty := h.nonempty
  few := h.few
  nodup := h.nodup
  short := h.short
  enough := by
    rw [List.map_congr_left fun j hj => by rw [hv j hj]]
    exact h.enough
  owing j hj := by rw [hv j hj]; exact h.owing j hj

/-- A change of records among themselves: bonds of the others, and with the others, are none of theirs. -/
theorem Bonded.change (h : Bonded bonds) (own : Nat → Prop) (hsame : ∀ j, ¬ own j → bonds' j = bonds j)
    (heldApart : ∀ i c l vs need collected, ¬ own i → bonds i = some (.held c l vs need collected) → ∀ j ∈ vs, ¬ own j)
    (owedApart : ∀ j c l d i, ¬ own j → bonds j = some (.owes c l d (some i)) → ¬ own i)
    (hheld : ∀ i c l vs need collected, own i → bonds' i = some (.held c l vs need collected) →
      Covers bonds' i c l vs need collected)
    (howed : ∀ j c l d i, own j → bonds' j = some (.owes c l d (some i)) →
      ∃ c' l' vs need collected, bonds' i = some (.held c' l' vs need collected) ∧ j ∈ vs) : Bonded bonds' where
  held i c l vs need collected hi := by
    by_cases hown : own i
    · exact hheld i c l vs need collected hown hi
    · rw [hsame i hown] at hi
      exact (h.held _ _ _ _ _ _ hi).congr fun j hj => hsame j (heldApart i c l vs need collected hown hi j hj)
  owed j c l d i hj := by
    by_cases hown : own j
    · exact howed j c l d i hown hj
    · rw [hsame j hown] at hj
      rw [hsame i (owedApart j c l d i hown hj)]
      exact h.owed _ _ _ _ _ hj

/-- A record without a bond in either direction leaves. -/
theorem Bonded.drop (h : Bonded bonds) (hj : bonds j = none ∨ ∃ c l d, bonds j = some (.owes c l d none)) :
    Bonded (Function.update bonds j none) := by
  refine h.change (· = j) (fun k hk => Function.update_of_ne hk ..) ?_ ?_ ?_ ?_
  · rintro i c l vs need collected - hi k hk rfl
    obtain ⟨_, _, hb, -⟩ := (h.held _ _ _ _ _ _ hi).owing k hk
    rcases hj with hj | ⟨_, _, _, hj⟩ <;> simp [hj] at hb
  · rintro k c l d i - hk rfl
    obtain ⟨_, _, _, _, _, hb, -⟩ := h.owed _ _ _ _ _ hk
    rcases hj with hj | ⟨_, _, _, hj⟩ <;> simp [hj] at hb
  · rintro i c l vs need collected rfl hi
    simp at hi
  · rintro k c l d i rfl hk
    simp at hk

/-- A record without a bond in either direction enters. -/
theorem Bonded.enter (h : Bonded bonds) (hj : bonds j = none) {b : Option Bond}
    (hb : b = none ∨ ∃ c l d, b = some (.owes c l d none)) :
    Bonded (Function.update bonds j b) := by
  refine h.change (· = j) (fun k hk => Function.update_of_ne hk ..) ?_ ?_ ?_ ?_
  · rintro i c l vs need collected - hi k hk rfl
    obtain ⟨_, _, hb, -⟩ := (h.held _ _ _ _ _ _ hi).owing k hk
    simp [hj] at hb
  · rintro k c l d i - hk rfl
    obtain ⟨_, _, _, _, _, hb, -⟩ := h.owed _ _ _ _ _ hk
    simp [hj] at hb
  · rintro i c l vs need collected rfl hi
    rcases hb with rfl | ⟨_, _, _, rfl⟩ <;> simp at hi
  · rintro k c l d i rfl hk
    rcases hb with rfl | ⟨_, _, _, rfl⟩ <;> simp at hk

/-- A requester and its victims are bound among themselves. -/
theorem Bonded.heldApart (h : Bonded bonds) (hi : bonds i = some (.held c l vs need collected)) {k : Nat} {c' : CellIx}
    {l' need' collected' : Nat} {ws : List Nat} (hk : ¬ (k = i ∨ k ∈ vs)) (hw : bonds k = some (.held c' l' ws need' collected'))
    (j : Nat) (hj : j ∈ ws) : ¬ (j = i ∨ j ∈ vs) := by
  obtain ⟨_, _, hb, -⟩ := (h.held _ _ _ _ _ _ hw).owing j hj
  rintro (rfl | hmem)
  · simp [hi] at hb
  · obtain ⟨_, _, hb', -⟩ := (h.held _ _ _ _ _ _ hi).owing j hmem
    simp only [hb, Option.some.injEq, Bond.owes.injEq] at hb'
    exact hk (.inl hb'.2.2.2)

theorem Bonded.owedApart (h : Bonded bonds) (hi : bonds i = some (.held c l vs need collected)) {j k d' l' : Nat} {c' : CellIx}
    (hj : ¬ (j = i ∨ j ∈ vs)) (hb : bonds j = some (.owes c' l' d' (some k))) : ¬ (k = i ∨ k ∈ vs) := by
  obtain ⟨_, _, _, _, _, hk, hmem⟩ := h.owed _ _ _ _ _ hb
  rintro (rfl | hv)
  · simp only [hi, Option.some.injEq, Bond.held.injEq] at hk
    exact hj (.inr (hk.2.2.1 ▸ hmem))
  · obtain ⟨_, _, hb', -⟩ := (h.held _ _ _ _ _ _ hi).owing k hv
    simp [hk] at hb'

/-- The bonds when records lose their beneficiary. -/
def freedBonds (vs : List Nat) (bonds : Nat → Option Bond) (j : Nat) : Option Bond :=
  if j ∈ vs then Bond.freed (bonds j) else bonds j

/-- A requester leaves, and its victims lose their beneficiary (R64). -/
theorem Bonded.release (h : Bonded bonds) (hi : bonds i = some (.held c l vs need collected)) :
    Bonded (Function.update (freedBonds vs bonds) i none) := by
  have hfree (j : Nat) (hj : j = i ∨ j ∈ vs) : Function.update (freedBonds vs bonds) i none j = none
      ∨ ∃ c l d, Function.update (freedBonds vs bonds) i none j = some (.owes c l d none) := by
    by_cases hji : j = i
    · exact .inl (hji ▸ Function.update_self ..)
    · have hv := hj.resolve_left hji
      obtain ⟨l', d', hb, -⟩ := (h.held _ _ _ _ _ _ hi).owing j hv
      refine .inr ⟨c, l', d', ?_⟩
      rw [Function.update_of_ne hji, freedBonds, if_pos hv, hb]
      rfl
  refine h.change (fun j => j = i ∨ j ∈ vs) (fun j hj => ?_) (fun k _ _ ws _ _ hk hw => h.heldApart hi hk hw)
    (fun j _ _ _ k hj hb => h.owedApart hi hj hb) ?_ ?_
  · rw [Function.update_of_ne fun he => hj (.inl he), freedBonds, if_neg fun hv => hj (.inr hv)]
  · rintro k c' l' ws need' collected' hk hw
    rcases hfree k hk with hf | ⟨_, _, _, hf⟩ <;> simp [hf] at hw
  · rintro k c' l' d' o hk hw
    rcases hfree k hk with hf | ⟨_, _, _, hf⟩ <;> simp [hf] at hw

/-- A victim passes its units and leaves; its beneficiary still needs more (R58). -/
theorem Bonded.pass (h : Bonded bonds) {lj : Nat} {cj : CellIx} (hj : bonds j = some (.owes cj lj d (some i)))
    (hi : bonds i = some (.held c l vs need collected)) (hshort : collected + d < need) :
    Bonded (Function.update (Function.update bonds i
      (some (.held c l (vs.filter fun k => decide (k ≠ j)) need (collected + d)))) j none) := by
  have hc := h.held _ _ _ _ _ _ hi
  have hmem : j ∈ vs := by
    obtain ⟨_, _, _, _, _, hi', hmem⟩ := h.owed _ _ _ _ _ hj
    simp only [hi, Option.some.injEq, Bond.held.injEq] at hi'
    exact hi'.2.2.1 ▸ hmem
  have hne : j ≠ i := fun he => by simp [he, hi] at hj
  have herase : vs.filter (fun k => decide (k ≠ j)) = vs.erase j := filter_ne_eq_erase hc.nodup j
  have hleft (k : Nat) (hk : k ∈ vs.erase j) : k ∈ vs ∧ k ≠ j := ⟨List.mem_of_mem_erase hk, (hc.nodup.mem_erase_iff.1 hk).1⟩
  have hkept (k : Nat) (hk : k ≠ j) (hki : k ≠ i) (x : Option Bond) :
      Function.update (Function.update bonds i x) j none k = bonds k := by
    rw [Function.update_of_ne hk, Function.update_of_ne hki]
  have hnotself (k : Nat) (hk : k ∈ vs) : k ≠ i := by
    rintro rfl
    obtain ⟨_, _, hb, -⟩ := hc.owing k hk
    simp [hi] at hb
  rw [herase]
  have hself (x : Option Bond) : Function.update (Function.update bonds i x) j none i = x := by
    rw [Function.update_of_ne hne.symm, Function.update_self]
  refine h.change (fun k => k = i ∨ k ∈ vs) (fun k hk => hkept k ?_ ?_ _) (fun k _ _ ws _ _ hk hw => h.heldApart hi hk hw)
    (fun k _ _ _ o hk hb => h.owedApart hi hk hb) ?_ ?_
  · rintro rfl
    exact hk (.inr hmem)
  · exact fun he => hk (.inl he)
  · intro k c' l' ws need' collected' hk hw
    have hki : k = i := by
      refine hk.resolve_right fun hv => ?_
      obtain ⟨_, _, hb, -⟩ := hc.owing k hv
      by_cases hkj : k = j
      · simp [hkj] at hw
      · simp [hkept k hkj (hnotself k hv), hb] at hw
    subst hki
    rw [hself] at hw
    cases hw
    have hsum : (vs.map fun k => Bond.debt (bonds k)).sum = d + ((vs.erase j).map fun k => Bond.debt (bonds k)).sum := by
      rw [((List.perm_cons_erase hmem).map _).sum_eq, List.map_cons, List.sum_cons, hj]
      rfl
    have henough := hc.enough
    have hlength := List.length_erase_add_one hmem
    have hcovers : Covers bonds k c l (vs.erase j) need (collected + d) := by
      refine ⟨?_, by have := hc.few; omega, hc.nodup.erase j, hshort, by omega, fun o ho => hc.owing o (hleft o ho).1⟩
      rcases hrest : vs.erase j with _ | ⟨o, rest⟩
      · rw [hrest] at hsum
        simp at hsum
        omega
      · simp
    exact hcovers.congr fun o ho => hkept o (hleft o ho).2 (hnotself o (hleft o ho).1) _
  · intro k c' l' d' o hk hw
    by_cases hkj : k = j
    · simp [hkj] at hw
    · rcases hk with rfl | hv
      · simp [hself] at hw
      · rw [hkept k hkj (hnotself k hv)] at hw
        obtain ⟨_, _, hb, -⟩ := hc.owing k hv
        rw [hb] at hw
        cases hw
        exact ⟨_, _, _, _, _, hself _, (List.mem_erase_of_ne hkj).2 hv⟩

/-- A requester and its victims are bound to each other (R52, R53). -/
theorem Bonded.bind (h : Bonded bonds) (hi : bonds i = none) (hvs : ∀ j ∈ vs, bonds j = none)
    (hself : bonds' i = some (.held c l vs need 0)) (hothers : ∀ j, j ≠ i → j ∉ vs → bonds' j = bonds j)
    (howing : ∀ j ∈ vs, ∃ l' d, bonds' j = some (.owes c l' d (some i)) ∧ l' < l) (hnodup : vs.Nodup) (hfew : vs.length ≤ 4)
    (hneed : 1 ≤ need) (henough : need ≤ (vs.map fun j => Bond.debt (bonds' j)).sum) : Bonded bonds' := by
  have hnone (j : Nat) (hj : j = i ∨ j ∈ vs) : bonds j = none := hj.elim (fun he => he ▸ hi) (hvs j)
  refine h.change (fun j => j = i ∨ j ∈ vs) (fun j hj => hothers j (fun he => hj (.inl he)) fun hv => hj (.inr hv)) ?_ ?_ ?_ ?_
  · intro k _ _ ws _ _ _ hk j hj hown
    obtain ⟨_, _, hb, -⟩ := (h.held _ _ _ _ _ _ hk).owing j hj
    simp [hnone j hown] at hb
  · intro j _ _ _ k _ hb hown
    obtain ⟨_, _, _, _, _, hk, -⟩ := h.owed _ _ _ _ _ hb
    simp [hnone k hown] at hk
  · intro k c' l' ws need' collected' hk hw
    have hki : k = i := by
      refine hk.resolve_right fun hv => ?_
      obtain ⟨_, _, hb, -⟩ := howing k hv
      simp [hb] at hw
    subst hki
    rw [hself] at hw
    cases hw
    refine ⟨?_, hfew, hnodup, hneed, by omega, howing⟩
    rcases vs with _ | ⟨o, rest⟩
    · simp at henough
      omega
    · simp
  · intro k c' l' d' o hk hw
    rcases hk with rfl | hv
    · simp [hself] at hw
    · obtain ⟨_, _, hb, -⟩ := howing k hv
      rw [hb] at hw
      cases hw
      exact ⟨_, _, _, _, _, hself, hv⟩

end

end Sys2Proof.Machine
end

section
/-! The accounts of all cells and the bonds of all records together, and how they follow a record that leaves the live states,
enters them or changes in them. -/

namespace Sys2Proof.Machine

/-! ### Books of all cells -/

/-- An account with a record off its lists. -/
def Account.without (k : Account) (i : Nat) : Account :=
  { k with
    queue := k.queue.filter fun j => decide (j ≠ i)
    enqueueOrder := k.enqueueOrder.filter fun j => decide (j ≠ i)
    rankList := k.rankList.filter fun j => decide (j ≠ i) }

/-- The account of every cell is that of the live records. -/
def Books (n : Nat) (live : Nat → Live) (account : CellIx → Account) : Prop := ∀ c, Booked n live c (account c)

section
variable {n i : Nat} {live live' : Nat → Live} {account : CellIx → Account} {ses ses' : Session} {st st' : Stage} {k k' : Account}
variable {c : CellIx}

theorem Books.leave (h : Books n live account) (hi : i < n) (hl : live i = some (ses, st)) :
    Books n (Function.update live i none)
      (Function.update account ses.key.cell ((account ses.key.cell).remove i ses st)) := by
  intro c
  by_cases hc : c = ses.key.cell
  · subst hc
    rw [Function.update_self]
    exact (h _).remove hi hl rfl
  · rw [Function.update_of_ne hc]
    refine (h c).elsewhere hi (fun ses' st' he => ?_) (fun _ _ he => nomatch he)
    rw [hl] at he
    cases he
    exact fun he => hc he.symm

theorem Books.enter (h : Books n live account) (hi : i < n) (hl : live i = none) (hc : ses.key.cell = c)
    (hk : Account.Adds live (account c) k i ses st) :
    Books n (Function.update live i (some (ses, st))) (Function.update account c k) := by
  intro d
  by_cases hd : d = c
  · subst hd
    rw [Function.update_self]
    exact (h d).add hi hl hc hk
  · rw [Function.update_of_ne hd]
    refine (h d).elsewhere hi (fun ses' st' he => ?_) (fun ses' st' he => ?_)
    · rw [hl] at he
      cases he
    · cases he
      exact fun he => hd (he.symm.trans hc)

theorem Books.alike (h : Books n live account) (ha : ∀ j, (live j).Alike (live' j)) : Books n live' account :=
  fun c => (h c).alike ha

/-- A record that changes in place leaves and enters at once. -/
theorem Books.swap (h : Books n live account) (hi : i < n) (hl : live i = some (ses, st)) (hc : ses.key.cell = c)
    (hc' : ses'.key.cell = c)
    (hk : Account.Adds (Function.update live i none) ((account c).remove i ses st) k' i ses' st') :
    Books n (Function.update live i (some (ses', st'))) (Function.update account c k') := by
  subst hc
  have hentered := (h.leave hi hl).enter (ses := ses') (st := st') (k := k') hi (Function.update_self ..) hc'
    (by rw [Function.update_self]; exact hk)
  rwa [Function.update_idem, Function.update_idem] at hentered

/-! ### Lists a record is not on -/

theorem filter_ne_self {l : List Nat} (h : i ∉ l) : l.filter (fun j => decide (j ≠ i)) = l :=
  List.filter_eq_self.2 fun _ hj => decide_eq_true fun he => h (he ▸ hj)

theorem Booked.not_mem_queue (h : Booked n live c k) (hl : live i = some (ses, st)) (hst : st.isQueued = false) : i ∉ k.queue := by
  rw [h.queued, hl, Live.waits_some, hst]
  exact fun hn => nomatch hn.2

theorem Booked.not_mem_order (h : Booked n live c k) (hl : live i = some (ses, st)) (hst : st.isQueued = false) :
    i ∉ k.enqueueOrder := fun hm => h.not_mem_queue hl hst (h.order.mem_iff.1 hm)

theorem Booked.not_mem_rank (h : Booked n live c k) (hl : live i = some (ses, st)) (hst : st.isAdmitted = false) :
    i ∉ k.rankList := by
  rw [h.ranked, hl, Live.ranks_some, hst]
  exact fun hn => nomatch hn.2.1

theorem Booked.counts_le (h : Booked n live c k) (hi : i < n) (hl : live i = some (ses, st)) (hc : ses.key.cell = c) :
    countsA ses st ≤ k.countA ∧ countsC ses st ≤ k.countC ∧ countsR ses st ≤ k.countR := by
  have hle (f : Session → Stage → Nat) : f ses st ≤ total n live c f := by
    have := total_update hi live none c f
    rw [hl, Live.figure_some hc, show Live.figure none c f = 0 from rfl] at this
    omega
  rw [h.countA, h.countC, h.countR]
  exact ⟨hle _, hle _, hle _⟩

end

/-! ### The bond of a live record -/

/-- The bond of a live record, by indices. -/
def Live.bond (x : Live) : Option Bond :=
  match x with
  | some (ses, .held victims need _ collected) =>
    some (.held ses.key.cell ses.level (victims.map Handle.index) need collected)
  | some (ses, .ceding _ b _) => some (.owes ses.key.cell ses.level ses.demand (b.map Handle.index))
  | _ => none

/-- The handles that a live record names in its bond. -/
def Live.links (x : Live) : List Handle :=
  match x with
  | some (_, .held victims _ _ _) => victims
  | some (_, .ceding _ (some b) _) => [b]
  | _ => []

/-- A live record that lost its beneficiary. -/
def Live.unbound (x : Live) : Live :=
  match x with
  | some (ses, .ceding stamp _ deadline) => some (ses, .ceding stamp none deadline)
  | x => x

/-- Every demand is at least 1, and no emergency record is vulnerable (R2). -/
def Live.Sound (x : Live) : Prop := ∀ ses st, x = some (ses, st) → 1 ≤ ses.demand ∧ (ses.emergency = true → ses.vulnerable = false)

/-- A record that neither requests nor owes. -/
def Live.Unbonded (x : Live) : Prop := x.bond = none ∨ ∃ c l d, x.bond = some (.owes c l d none)

theorem Live.unbound_bond (x : Live) : x.unbound.bond = Bond.freed x.bond := by
  rcases x with _ | ⟨ses, st⟩
  · rfl
  · cases st <;> rfl

theorem Live.unbound_links (x : Live) : x.unbound.links ⊆ x.links := by
  rcases x with _ | ⟨ses, st⟩
  · exact fun _ h => h
  · cases st with
    | ceding stamp b deadline => exact fun _ h => nomatch h
    | _ => exact fun _ h => h

theorem Live.alike_unbound (x : Live) : x.Alike x.unbound := by
  rcases x with _ | ⟨ses, st⟩
  · exact .refl _
  · cases st with
    | ceding stamp b deadline => exact .of_session rfl rfl rfl rfl rfl rfl rfl rfl rfl
    | _ => exact .refl _

theorem Live.Sound.unbound {x : Live} (h : x.Sound) : x.unbound.Sound := by
  rcases x with _ | ⟨ses, st⟩
  · exact h
  · cases st with
    | ceding stamp b deadline =>
      rintro _ _ ⟨⟩
      exact h _ _ rfl
    | _ => exact h

theorem Live.sound_none : Live.Sound none := fun _ _ h => nomatch h

theorem Live.links_of_unbonded {x : Live} (h : x.Unbonded) : x.links = [] := by
  rcases x with _ | ⟨ses, st⟩
  · rfl
  · rcases st with _ | _ | _ | _ | ⟨_, _ | _, _⟩
    case held => rcases h with h | ⟨_, _, _, h⟩ <;> cases h
    case ceding.some => rcases h with h | ⟨_, _, _, h⟩ <;> cases h
    all_goals rfl

/-- The live records when these lose their beneficiary. -/
def freedLive (vs : List Nat) (live : Nat → Live) (j : Nat) : Live :=
  if j ∈ vs then (live j).unbound else live j

/-- Every handle that a bond names is that of its record. -/
def Current (live : Nat → Live) (handle : Nat → Handle) : Prop := ∀ i, ∀ h ∈ (live i).links, handle h.index = h

/-! ### Accounts and bonds -/

/-- The accounts of every cell and the bonds of every record are exact. -/
structure Accounts (n : Nat) (live : Nat → Live) (handle : Nat → Handle) (account : CellIx → Account) : Prop where
  books : Books n live account
  bonds : Bonded fun i => (live i).bond
  current : Current live handle
  sound : ∀ i, (live i).Sound

section
variable {n i : Nat} {live live' : Nat → Live} {handle handle' : Nat → Handle} {account account' : CellIx → Account}
variable {ses ses' : Session} {st st' : Stage} {k' : Account} {c : CellIx}

theorem bonds_update (live : Nat → Live) (i : Nat) (x : Live) :
    (fun j => (Function.update live i x j).bond) = Function.update (fun j => (live j).bond) i x.bond := by
  funext j
  by_cases hj : j = i
  · subst hj
    rw [Function.update_self, Function.update_self]
  · rw [Function.update_of_ne hj, Function.update_of_ne hj]

theorem bonds_freedLive (vs : List Nat) (live : Nat → Live) :
    (fun j => (freedLive vs live j).bond) = freedBonds vs fun j => (live j).bond := by
  funext j
  unfold freedLive freedBonds
  split
  · exact Live.unbound_bond _
  · rfl

/-- A record that a bond names is itself bound, and so live. -/
theorem Bonded.linked (h : Bonded fun i => (live i).bond) {o : Handle} (ho : o ∈ (live i).links) : live o.index ≠ none := by
  have hbound : (live o.index).bond ≠ none := by
    rcases hx : live i with _ | ⟨ses, st⟩
    · rw [hx] at ho
      exact nomatch ho
    · rw [hx] at ho
      have hb : (live i).bond = Live.bond (some (ses, st)) := by rw [hx]
      rcases st with _ | _ | _ | _ | ⟨_, _ | b, _⟩
      case held =>
        obtain ⟨_, _, he, -⟩ := (h.held i _ _ _ _ _ hb).owing o.index (List.mem_map_of_mem ho)
        exact fun hn => nomatch he.symm.trans hn
      case ceding.some =>
        obtain ⟨_, _, _, _, _, he, -⟩ := h.owed i _ _ _ _ hb
        rw [List.mem_singleton.1 ho]
        exact fun hn => nomatch he.symm.trans hn
      all_goals exact nomatch ho
  intro hn
  exact hbound (by rw [hn]; rfl)

/-- Bonds that name no further handle stay those of live records whose generation does not change. -/
theorem Current.mono (h : Current live handle) (hlinks : ∀ j, (live' j).links ⊆ (live j).links)
    (hbonds : Bonded fun i => (live' i).bond) (hhandle : ∀ j, live' j ≠ none → handle' j = handle j) : Current live' handle' :=
  fun i o ho => (hhandle _ (hbonds.linked ho)).trans (h i o (hlinks i ho))

theorem sound_update (h : ∀ j, (live j).Sound) {x : Live} (hx : x.Sound) (j : Nat) : (Function.update live i x j).Sound := by
  by_cases hj : j = i
  · subst hj
    rwa [Function.update_self]
  · rw [Function.update_of_ne hj]
    exact h j

theorem links_update (live : Nat → Live) {x : Live} (hx : x.links ⊆ (live i).links) (j : Nat) :
    (Function.update live i x j).links ⊆ (live j).links := by
  by_cases hj : j = i
  · subst hj
    rwa [Function.update_self]
  · rw [Function.update_of_ne hj]
    exact fun _ h => h

/-- A record without a bond leaves the live states. -/
theorem Accounts.leave (h : Accounts n live handle account) (hi : i < n) (hl : live i = some (ses, st))
    (hb : Live.Unbonded (some (ses, st))) (hhandle : ∀ j, j ≠ i → handle' j = handle j) :
    Accounts n (Function.update live i none) handle'
      (Function.update account ses.key.cell ((account ses.key.cell).remove i ses st)) := by
  have hbonds : Bonded fun j => (Function.update live i none j).bond := by
    rw [bonds_update]
    exact h.bonds.drop (by rw [hl]; exact hb)
  refine ⟨h.books.leave hi hl, hbonds, h.current.mono (links_update live (List.nil_subset _)) hbonds fun j hj => hhandle j ?_,
    sound_update h.sound Live.sound_none⟩
  rintro rfl
  exact hj (Function.update_self ..)

/-- A record without a bond enters the live states. -/
theorem Accounts.enter (h : Accounts n live handle account) (hi : i < n) (hl : live i = none) (hc : ses.key.cell = c)
    (hb : Live.Unbonded (some (ses, st))) (hs : Live.Sound (some (ses, st)))
    (hk : Account.Adds live (account c) k' i ses st) (hhandle : ∀ j, handle' j = handle j) :
    Accounts n (Function.update live i (some (ses, st))) handle' (Function.update account c k') := by
  have hbonds : Bonded fun j => (Function.update live i (some (ses, st)) j).bond := by
    rw [bonds_update]
    exact h.bonds.enter (by rw [hl]; rfl) hb
  refine ⟨h.books.enter hi hl hc hk, hbonds, h.current.mono (links_update live ?_) hbonds fun j _ => hhandle j,
    sound_update h.sound hs⟩
  rw [Live.links_of_unbonded hb]
  exact List.nil_subset _

/-- A record without a bond changes in place. -/
theorem Accounts.swap (h : Accounts n live handle account) (hi : i < n) (hl : live i = some (ses, st)) (hc : ses.key.cell = c)
    (hc' : ses'.key.cell = c) (hb : Live.Unbonded (some (ses, st))) (hb' : Live.Unbonded (some (ses', st')))
    (hs : Live.Sound (some (ses', st')))
    (hk : Account.Adds (Function.update live i none) ((account c).remove i ses st) k' i ses' st')
    (hhandle : ∀ j, handle' j = handle j) :
    Accounts n (Function.update live i (some (ses', st'))) handle' (Function.update account c k') := by
  subst hc
  have hentered := (h.leave hi hl hb fun _ _ => rfl).enter (ses := ses') (st := st') (k' := k') hi (Function.update_self ..) hc' hb'
    hs (by rw [Function.update_self]; exact hk) hhandle
  rwa [Function.update_idem, Function.update_idem] at hentered

/-- Two records that neither books nor bonds tell apart. -/
structure Live.Same (x y : Live) : Prop where
  alike : x.Alike y
  bond : y.bond = x.bond
  links : y.links ⊆ x.links
  sound : x.Sound → y.Sound

theorem Live.Same.refl (x : Live) : x.Same x := ⟨.refl x, rfl, fun _ h => h, fun h => h⟩

theorem Accounts.same (h : Accounts n live handle account) (hlive : ∀ j, (live j).Same (live' j))
    (hhandle : ∀ j, handle' j = handle j) (haccount : account' = account) : Accounts n live' handle' account' := by
  have hbonds : (fun j => (live' j).bond) = fun j => (live j).bond := funext fun j => (hlive j).bond
  subst haccount
  exact ⟨h.books.alike fun j => (hlive j).alike, hbonds ▸ h.bonds,
    h.current.mono (fun j => (hlive j).links) (hbonds ▸ h.bonds) fun j _ => hhandle j, fun j => (hlive j).sound (h.sound j)⟩

end

end Sys2Proof.Machine
end

section
/-! Accounts and bonds through a withdrawal, a victim exit, a promotion and a preemption decision (3.6 to 3.9). -/

namespace Sys2Proof.Machine

/-! ### Places -/

/-- A record placed in a queue leaves its emergency records first (R71, R74). -/
theorem queueInsert_urgent {e : Nat → Bool} {va : Nat → Tick} {i : Nat} {q : List Nat}
    (hq : q.Pairwise fun a b => e b = true → e a = true) :
    (queueInsert e va i q).Perm (i :: q) ∧ (queueInsert e va i q).Pairwise fun a b => e b = true → e a = true := by
  obtain ⟨ahead, behind, rfl, hins, hahead, hbehind⟩ := newRecordsTakeTheirPlaces.1 e va i q
  obtain ⟨hfront, hback, hcross⟩ := List.pairwise_append.1 hq
  have hnext : ∀ y ∈ behind, e y = false := by
    rcases behind with _ | ⟨j, more⟩
    · simp
    · obtain ⟨hej, -⟩ := hbehind j more rfl
      intro y hy
      rcases List.mem_cons.1 hy with rfl | hy
      · exact hej
      · exact Bool.eq_false_iff.2 fun hey => by simp [(List.pairwise_cons.1 hback).1 y hy hey] at hej
  rw [hins]
  refine ⟨List.perm_middle, List.pairwise_append.2 ⟨hfront, List.pairwise_cons.2 ⟨fun y hy hey => ?_, hback⟩, fun x hx y hy => ?_⟩⟩
  · simp [hnext y hy] at hey
  · rcases List.mem_cons.1 hy with rfl | hy
    · exact fun hey => (hahead x hx).elim id fun hn => by simp [hn.1] at hey
    · exact hcross x hx y hy

theorem foldl_queueInsert_urgent {e : Nat → Bool} {va : Nat → Tick} (l : List Nat) {q : List Nat}
    (hq : q.Pairwise fun a b => e b = true → e a = true) :
    (l.foldl (fun q i => queueInsert e va i q) q).Perm (q ++ l)
      ∧ (l.foldl (fun q i => queueInsert e va i q) q).Pairwise fun a b => e b = true → e a = true := by
  induction l generalizing q with
  | nil => exact ⟨by simp, hq⟩
  | cons i l ih =>
    obtain ⟨hperm, hurgent⟩ := queueInsert_urgent (va := va) (i := i) hq
    obtain ⟨hperm', hurgent'⟩ := ih hurgent
    exact ⟨hperm'.trans ((hperm.append_right l).trans List.perm_middle.symm), hurgent'⟩

/-- A record placed on a rank list leaves it in ascending level (R36, R37). -/
theorem rankInsert_ascending {f : Nat → Nat} {i : Nat} {q : List Nat} (hq : q.Pairwise fun a b => f a ≤ f b) :
    (rankInsert f i (f i) q).Perm (i :: q) ∧ (rankInsert f i (f i) q).Pairwise fun a b => f a ≤ f b := by
  obtain ⟨ahead, behind, rfl, hins, hahead, hbehind⟩ := newRecordsTakeTheirPlaces.2 f i (f i) q
  obtain ⟨hfront, hback, hcross⟩ := List.pairwise_append.1 hq
  have hnext : ∀ y ∈ behind, f i ≤ f y := by
    rcases behind with _ | ⟨j, more⟩
    · simp
    · have hij := hbehind j more rfl
      intro y hy
      rcases List.mem_cons.1 hy with rfl | hy
      · exact hij
      · exact hij.trans ((List.pairwise_cons.1 hback).1 y hy)
  rw [hins]
  refine ⟨List.perm_middle, List.pairwise_append.2 ⟨hfront, List.pairwise_cons.2 ⟨hnext, hback⟩, fun x hx y hy => ?_⟩⟩
  rcases List.mem_cons.1 hy with rfl | hy
  · exact (hahead x hx).le
  · exact hcross x hx y hy

section
variable {n i j : Nat} {live live' : Nat → Live} {handle handle' : Nat → Handle} {account account' : CellIx → Account}
variable {ses v : Session} {st : Stage} {c : CellIx} {victims : List Handle} {need reserved collected : Nat} {stamp deadline : Tick}

/-! ### A requester leaves -/

theorem freedLive_held {vs : List Nat} (hl : live i = some (ses, .held victims need reserved collected)) :
    freedLive vs live i = live i := by
  unfold freedLive
  split
  · rw [hl]
    rfl
  · rfl

theorem Books.freed (h : Books n live account) (vs : List Nat) : Books n (freedLive vs live) account :=
  h.alike fun j => by
    unfold freedLive
    split
    · exact (live j).alike_unbound
    · exact .refl _

/-- A HELD record leaves, and its victims lose their beneficiary (R64). -/
theorem Accounts.withdraw (h : Accounts n live handle account) (hi : i < n)
    (hl : live i = some (ses, .held victims need reserved collected)) (hhandle : ∀ j, j ≠ i → handle' j = handle j) :
    Accounts n (Function.update (freedLive (victims.map Handle.index) live) i none) handle'
      (Function.update account ses.key.cell
        ((account ses.key.cell).remove i ses (.held victims need reserved collected))) := by
  have hbonds : Bonded fun j => (Function.update (freedLive (victims.map Handle.index) live) i none j).bond := by
    rw [bonds_update, bonds_freedLive]
    exact h.bonds.release (congrArg Live.bond hl)
  have hlinks (j : Nat) : (Function.update (freedLive (victims.map Handle.index) live) i none j).links ⊆ (live j).links := by
    refine fun o ho => ?_
    have ho' := links_update (freedLive (victims.map Handle.index) live) (List.nil_subset _) j ho
    unfold freedLive at ho'
    split at ho'
    · exact (live j).unbound_links ho'
    · exact ho'
  refine ⟨(h.books.freed _).leave hi ((freedLive_held hl).trans hl), hbonds, h.current.mono hlinks hbonds fun j hj => hhandle j ?_,
    sound_update (fun j => ?_) Live.sound_none⟩
  · rintro rfl
    exact hj (Function.update_self ..)
  · unfold freedLive
    split
    · exact (h.sound j).unbound
    · exact h.sound j

/-! ### A victim leaves -/

/-- What a victim and its beneficiary have to do with each other (R56). -/
theorem Accounts.bond (h : Accounts n live handle account) {b : Handle}
    (hl : live j = some (v, .ceding stamp (some b) deadline)) : ∃ ses victims need reserved collected,
      live b.index = some (ses, .held victims need reserved collected) ∧ v.key.cell = ses.key.cell ∧ v.level < ses.level
        ∧ handle b.index = b ∧ handle j ∈ victims ∧ collected < need := by
  have hcurrent := h.current j b (by rw [hl]; exact List.mem_singleton.2 rfl)
  obtain ⟨c', l', vs, need, collected, hb, hmem⟩ := h.bonds.owed j _ _ _ b.index (congrArg Live.bond hl)
  obtain ⟨ses, st, hses⟩ : ∃ ses st, live b.index = some (ses, st) := by
    cases hx : live b.index with
    | none =>
      rw [show (live b.index).bond = none by rw [hx]; rfl] at hb
      cases hb
    | some x => exact ⟨x.1, x.2, rfl⟩
  have hbond : Live.bond (some (ses, st)) = some (.held c' l' vs need collected) := by
    rw [← hses]
    exact hb
  cases st with
  | held victims need' reserved collected' =>
    cases hbond
    have hcovers := h.bonds.held b.index _ _ _ _ _ hb
    obtain ⟨_, _, hv, hlt⟩ := hcovers.owing j hmem
    have hv' : some (Bond.owes v.key.cell v.level v.demand (some b.index)) = _ := (congrArg Live.bond hl).symm.trans hv
    simp only [Option.some.injEq, Bond.owes.injEq] at hv'
    obtain ⟨o, ho, hoj⟩ := List.mem_map.1 hmem
    have hoc : handle o.index = o := h.current b.index o (by rw [hses]; exact ho)
    refine ⟨ses, victims, need, reserved, collected, hses, hv'.1, hv'.2.1 ▸ hlt, hcurrent, ?_, hcovers.short⟩
    rw [← hoj, hoc]
    exact ho
  | ceding => cases hbond
  | _ => cases hbond

/-- The victims of a record without one of them, by index. -/
theorem Accounts.left_index (h : Accounts n live handle account) (hindex : ∀ k, (handle k).index = k)
    (hl : live i = some (ses, .held victims need reserved collected)) :
    (victims.filter fun o => decide (o ≠ handle j)).map Handle.index
      = (victims.map Handle.index).filter fun k => decide (k ≠ j) := by
  rw [List.filter_map]
  refine congrArg _ (List.filter_congr fun o ho => ?_)
  have hoc : handle o.index = o := h.current i o (by rw [hl]; exact ho)
  refine decide_eq_decide.2 (not_congr ⟨fun he => ?_, fun he => ?_⟩)
  · rw [he, hindex]
  · rw [← hoc, ← he]

/-- A victim exits and leaves; its beneficiary, which still needs more, collects its demand (R58). -/
theorem Accounts.pass (h : Accounts n live handle account) (hindex : ∀ k, (handle k).index = k)
    (hn : ∀ k, live k ≠ none → k < n)
    {b : Handle} (hl : live j = some (v, .ceding stamp (some b) deadline))
    (hb : live b.index = some (ses, .held victims need reserved collected)) (hc : v.key.cell = c)
    (hshort : collected + v.demand < need) (hhandle : ∀ k, k ≠ j → handle' k = handle k) :
    Accounts n (Function.update (Function.update live b.index (some (ses,
        .held (victims.filter fun o => decide (o ≠ handle j)) need reserved (collected + v.demand)))) j none) handle'
      (Function.update account c { (account c).without j with
        countC := (account c).countC - v.demand, countR := (account c).countR + v.demand }) := by
  obtain ⟨ses', _, _, _, _, hb', hcell, -, hcurrent, -, -⟩ := h.bond hl
  obtain rfl : ses' = ses := congrArg Prod.fst (Option.some.inj (hb'.symm.trans hb))
  have hne : j ≠ b.index := by
    rintro rfl
    rw [hl] at hb
    cases hb
  have hi : b.index < n := hn _ (by rw [hb]; exact fun hx => nomatch hx)
  have hj : j < n := hn _ (by rw [hl]; exact fun hx => nomatch hx)
  subst hc
  have hbook := h.books v.key.cell
  have hcount := (hbook.counts_le hi hb hcell.symm).2.2
  have hfilterQ : (account v.key.cell).queue.filter (fun k => decide (k ≠ b.index)) = (account v.key.cell).queue :=
    filter_ne_self (hbook.not_mem_queue hb rfl)
  have hfilterO : (account v.key.cell).enqueueOrder.filter (fun k => decide (k ≠ b.index)) = (account v.key.cell).enqueueOrder :=
    filter_ne_self (hbook.not_mem_order hb rfl)
  have hfilterR : (account v.key.cell).rankList.filter (fun k => decide (k ≠ b.index)) = (account v.key.cell).rankList :=
    filter_ne_self (hbook.not_mem_rank hb rfl)
  have hbooks := (h.books.swap (ses' := ses') (st' := .held (victims.filter fun o => decide (o ≠ handle j)) need reserved
    (collected + v.demand)) (c := v.key.cell) (k' := { account v.key.cell with
      countR := (account v.key.cell).countR + v.demand }) hi hb hcell.symm hcell.symm {
        countA := rfl
        countC := rfl
        countR := by
          show (account v.key.cell).countR + v.demand
            = (account v.key.cell).countR - (reserved + collected) + (reserved + (collected + v.demand))
          have : reserved + collected ≤ (account v.key.cell).countR := hcount
          omega
        queued := fun hq => nomatch hq
        unqueued := fun _ => ⟨hfilterQ.symm, hfilterO.symm⟩
        ranked := fun hr => nomatch hr.1
        unranked := fun _ => hfilterR.symm }).leave (i := j) (ses := v) (st := .ceding stamp (some b) deadline) hj
          ((Function.update_of_ne hne ..).trans hl)
  rw [Function.update_idem, Function.update_self] at hbooks
  have hbonds : Bonded fun k => (Function.update (Function.update live b.index (some (ses',
      .held (victims.filter fun o => decide (o ≠ handle j)) need reserved (collected + v.demand)))) j none k).bond := by
    rw [bonds_update, bonds_update]
    have := h.bonds.pass (congrArg Live.bond hl) (congrArg Live.bond hb) hshort
    rw [← h.left_index hindex hb] at this
    exact this
  refine ⟨hbooks, hbonds, h.current.mono (fun k o ho => ?_) hbonds fun k hk => hhandle k ?_, sound_update (sound_update h.sound ?_)
    Live.sound_none⟩
  · have ho' := links_update _ (List.nil_subset _) k ho
    refine links_update live (x := some (ses', _)) ?_ k ho'
    rw [hb]
    exact List.filter_subset_self victims
  · rintro rfl
    exact hk (Function.update_self ..)
  · rintro _ _ ⟨⟩
    exact h.sound b.index _ _ hb

end

end Sys2Proof.Machine
end

section
/-! Accounts and bonds through entry to SETUP, a promotion and a preemption decision (3.4 to 3.7). -/

namespace Sys2Proof.Machine

section
variable {n i j : Nat} {live live' : Nat → Live} {handle handle' : Nat → Handle} {account account' : CellIx → Account}
variable {ses v : Session} {st : Stage} {c : CellIx} {victims : List Handle} {need reserved collected take : Nat}
variable {stamp deadline : Tick} {k : Account} {f : Nat → Nat}

/-! ### Entry to SETUP or ACTIVE -/

theorem counts_admitted (ses : Session) (h : st.isAdmitted = true) :
    countsA ses st = ses.demand ∧ countsC ses st = 0 ∧ countsR ses st = 0 ∧ st.isQueued = false := by
  cases st with
  | setup => exact ⟨rfl, rfl, rfl, rfl⟩
  | active => exact ⟨rfl, rfl, rfl, rfl⟩
  | _ => cases h

theorem Live.unbonded_admitted (ses : Session) (h : st.isAdmitted = true) : Live.Unbonded (some (ses, st)) := by
  cases st with
  | setup => exact .inl rfl
  | active => exact .inl rfl
  | _ => cases h

/-- An account with a record newly in A, on the rank list when it is vulnerable (R37, R48, R60). -/
def Account.counted (k : Account) (f : Nat → Nat) (i : Nat) (ses : Session) : Account :=
  { k with
    countA := k.countA + ses.demand
    rankList := if ses.vulnerable = true then rankInsert f i ses.level k.rankList else k.rankList }

/-- What stands on a rank list is live. -/
theorem Booked.ne_of_mem_rank (h : Booked n live c k) (hl : live i = none) {a : Nat} (ha : a ∈ k.rankList) : a ≠ i := by
  rintro rfl
  rw [h.ranked, hl] at ha
  exact Live.not_ranks_none ha

theorem Account.Adds.counted (h : Booked n live c k) (hl : live i = none) (hst : st.isAdmitted = true)
    (hi : f i = ses.level) (hf : ∀ a ∈ k.rankList, f a = (live a).level) : Account.Adds live k (k.counted f i ses) i ses st := by
  obtain ⟨hA, hC, hR, hq⟩ := counts_admitted ses hst
  refine ⟨by rw [hA]; rfl, by rw [hC]; rfl, by rw [hR]; rfl, fun hn => by simp [hq] at hn, fun _ => ⟨rfl, rfl⟩, fun hr => ?_,
    fun hr => if_neg fun hv => hr ⟨hst, hv⟩⟩
  have hlevels : k.rankList.Pairwise fun a b => f a ≤ f b :=
    h.levels.imp_of_mem fun {a b} ha hb hab => by rwa [hf a ha, hf b hb]
  have hlist : (k.counted f i ses).rankList = rankInsert f i (f i) k.rankList := by
    rw [hi]
    exact if_pos hr.2
  obtain ⟨hperm, hascending⟩ := rankInsert_ascending (i := i) hlevels
  rw [hlist]
  have hsame (a : Nat) (ha : a ∈ rankInsert f i (f i) k.rankList) : (Function.update live i (some (ses, st)) a).level = f a := by
    rcases List.mem_cons.1 (hperm.mem_iff.1 ha) with rfl | ha
    · rw [Function.update_self, hi]
      rfl
    · rw [Function.update_of_ne (h.ne_of_mem_rank hl ha), hf a ha]
  exact ⟨hperm, hascending.imp_of_mem fun {a b} ha hb hab => by rwa [hsame a ha, hsame b hb]⟩

/-! ### Promotion -/

/-- A victim exits and leaves, and its units meet the need of its beneficiary, which enters SETUP; the other victims lose their
beneficiary (R58, R60, R61). -/
theorem Accounts.complete (h : Accounts n live handle account) (hindex : ∀ k, (handle k).index = k)
    (hn : ∀ k, live k ≠ none → k < n)
    {b : Handle} (hl : live j = some (v, .ceding stamp (some b) deadline))
    (hb : live b.index = some (ses, .held victims need reserved collected)) (hc : v.key.cell = c)
    (htake : collected + take = need) (hst : st.isAdmitted = true) (hi : f b.index = ses.level)
    (hf : ∀ a ∈ (account c).rankList, f a = (live a).level) (hhandle : ∀ k, k ≠ j → handle' k = handle k) :
    Accounts n (Function.update (Function.update
        (freedLive ((victims.filter fun o => decide (o ≠ handle j)).map Handle.index) live) b.index (some (ses, st))) j none) handle'
      (Function.update account c (Account.counted { (account c).without j with
        countC := (account c).countC - v.demand, countR := (account c).countR + take - (reserved + need) } f b.index ses)) := by
  obtain ⟨ses', _, _, _, _, hb', hcell, -, hcurrent, hmem, -⟩ := h.bond hl
  obtain ⟨rfl, hst'⟩ := Prod.mk.inj (Option.some.inj (hb'.symm.trans hb))
  cases hst'
  have hne : j ≠ b.index := by
    rintro rfl
    rw [hl] at hb
    cases hb
  have hib : b.index < n := hn _ (by rw [hb]; exact fun hx => nomatch hx)
  have hij : j < n := hn _ (by rw [hl]; exact fun hx => nomatch hx)
  subst hc
  have hbook := h.books v.key.cell
  have hmemj : j ∈ victims.map Handle.index := by
    have := List.mem_map_of_mem (f := Handle.index) hmem
    rwa [hindex] at this
  have hgone := h.withdraw hib hb fun _ _ => rfl
  have hlj : Function.update (freedLive (victims.map Handle.index) live) b.index none j
      = some (v, .ceding stamp none deadline) := by
    rw [Function.update_of_ne hne, freedLive, if_pos hmemj, hl]
    rfl
  have hleft := hgone.leave (handle' := handle') hij hlj (.inr ⟨_, _, _, rfl⟩) hhandle
  rw [← hcell, Function.update_idem, Function.update_self] at hleft
  have hbi : Function.update (Function.update (freedLive (victims.map Handle.index) live) b.index none) j none b.index = none := by
    rw [Function.update_of_ne hne.symm, Function.update_self]
  have hleftBook := hleft.books v.key.cell
  have hentered := hleft.enter (ses := ses') (st := st) hib hbi hcell.symm (Live.unbonded_admitted _ hst)
    (by rintro _ _ ⟨⟩; exact h.sound b.index _ _ hb) (Account.Adds.counted hleftBook hbi hst hi fun a ha => ?_) fun _ => rfl
  · have hlive : Function.update (Function.update (Function.update (freedLive (victims.map Handle.index) live) b.index none) j none)
        b.index (some (ses', st)) = Function.update (Function.update
          (freedLive ((victims.filter fun o => decide (o ≠ handle j)).map Handle.index) live) b.index (some (ses', st))) j none := by
      rw [Function.update_comm hne, Function.update_idem]
      funext a
      by_cases haj : a = j
      · rw [haj, Function.update_self, Function.update_self]
      · rw [Function.update_of_ne haj, Function.update_of_ne haj]
        by_cases hab : a = b.index
        · rw [hab, Function.update_self, Function.update_self]
        · rw [Function.update_of_ne hab, Function.update_of_ne hab, h.left_index hindex hb]
          unfold freedLive
          simp [List.mem_filter, haj]
    have haccount : ((account v.key.cell).remove b.index ses' (.held victims need reserved collected)).remove j v
        (.ceding stamp none deadline) = { (account v.key.cell).without j with
          countC := (account v.key.cell).countC - v.demand
          countR := (account v.key.cell).countR + take - (reserved + need) } := by
      have hq := filter_ne_self (hbook.not_mem_queue hb rfl)
      have ho := filter_ne_self (hbook.not_mem_order hb rfl)
      have hr := filter_ne_self (hbook.not_mem_rank hb rfl)
      have hcount : (account v.key.cell).countR - (reserved + collected)
          = (account v.key.cell).countR + take - (reserved + need) := by omega
      simp only [Account.remove, Account.without, countsA, countsC, countsR, hq, ho, hr, hcount, Nat.sub_zero]
    rw [hlive, Function.update_idem, Function.update_self, haccount] at hentered
    exact hentered
  · rw [Function.update_self] at ha
    have hrank : a ∈ (account v.key.cell).rankList :=
      List.mem_of_mem_filter (List.mem_of_mem_filter (p := fun a => decide (a ≠ j)) ha)
    have haj : a ≠ j := of_decide_eq_true (List.mem_filter.1 ha).2
    have hab : a ≠ b.index := of_decide_eq_true (List.mem_filter.1 (List.mem_of_mem_filter (p := fun a => decide (a ≠ j)) ha)).2
    rw [hf a hrank, Function.update_of_ne haj, Function.update_of_ne hab]
    unfold freedLive
    split
    · exact (live a).alike_unbound.level.symm
    · rfl

/-! ### The preemption decision -/

/-- A requester enters HELD, bound to records that cede for it (R52, R53). -/
theorem Accounts.bind (h : Accounts n live handle account) (hindex : ∀ k, (handle k).index = k) {vs : List Nat} (hl : live i = none)
    (hvs : ∀ j ∈ vs, ∃ v st, live j = some (v, st) ∧ v.key.cell = ses.key.cell ∧ st.isAdmitted = true ∧ v.level < ses.level)
    (hnodup : vs.Nodup) (hfew : vs.length ≤ 4) (hneed : 1 ≤ need) (hs : Live.Sound (some (ses, st)))
    (henough : need ≤ (vs.map fun j => (live j).demand).sum)
    (hself : live' i = some (ses, .held (vs.map handle) need reserved 0))
    (hceding : ∀ j ∈ vs, ∀ v st, live j = some (v, st) →
      ∃ stamp deadline, live' j = some (v, .ceding stamp (some (handle i)) deadline))
    (hothers : ∀ j, j ≠ i → j ∉ vs → live' j = live j) (hbooks : Books n live' account') (hhandle : ∀ j, handle' j = handle j) :
    Accounts n live' handle' account' := by
  have hidx : (vs.map handle).map Handle.index = vs := by
    rw [List.map_map]
    exact (List.map_congr_left fun j _ => hindex j).trans (List.map_id vs)
  have hbonds : Bonded fun j => (live' j).bond := by
    refine h.bonds.bind (i := i) (vs := vs) (c := ses.key.cell) (l := ses.level) (need := need) (by rw [hl]; rfl) (fun j hj => ?_) ?_
      (fun j hji hjv => by rw [hothers j hji hjv]) (fun j hj => ?_) hnodup hfew hneed (henough.trans_eq ?_)
    · obtain ⟨v, st, hv, -, hst, -⟩ := hvs j hj
      rw [hv]
      cases st with
      | setup => rfl
      | active => rfl
      | _ => cases hst
    · rw [hself]
      show some (Bond.held _ _ ((vs.map handle).map Handle.index) _ _) = _
      rw [hidx]
    · obtain ⟨v, st, hv, hcell, -, hlevel⟩ := hvs j hj
      obtain ⟨stamp, deadline, hv'⟩ := hceding j hj v st hv
      refine ⟨v.level, v.demand, ?_, hlevel⟩
      rw [hv']
      show some (Bond.owes v.key.cell v.level v.demand (some (handle i).index)) = _
      rw [hcell, hindex]
    · refine congrArg List.sum (List.map_congr_left fun j hj => ?_)
      obtain ⟨v, st, hv, -⟩ := hvs j hj
      obtain ⟨stamp, deadline, hv'⟩ := hceding j hj v st hv
      rw [hv, hv']
      rfl
  refine ⟨hbooks, hbonds, fun k o ho => ?_, fun k => ?_⟩
  · rw [hhandle]
    by_cases hki : k = i
    · subst hki
      rw [hself] at ho
      obtain ⟨j, -, rfl⟩ := List.mem_map.1 ho
      rw [hindex]
    · by_cases hkv : k ∈ vs
      · obtain ⟨v, st, hv, -⟩ := hvs k hkv
        obtain ⟨stamp, deadline, hv'⟩ := hceding k hkv v st hv
        rw [hv'] at ho
        rw [List.mem_singleton.1 ho, hindex]
      · rw [hothers k hki hkv] at ho
        exact h.current k o ho
  · by_cases hki : k = i
    · subst hki
      rw [hself]
      rintro _ _ ⟨⟩
      exact hs _ _ rfl
    · by_cases hkv : k ∈ vs
      · obtain ⟨v, st, hv, -⟩ := hvs k hkv
        obtain ⟨stamp, deadline, hv'⟩ := hceding k hkv v st hv
        rw [hv']
        rintro _ _ ⟨⟩
        exact h.sound k _ _ hv
      · rw [hothers k hki hkv]
        exact h.sound k

end

end Sys2Proof.Machine
end

section
/-! The accounts and bonds of a state, and what each operation of the model does to them. -/

namespace Sys2Proof.Machine

/-! ### The accounts of a state -/

def State.account (s : State) (c : CellIx) : Account := (s.cell c).account

/-- The accounts and bonds of a state are exact. -/
def State.Accounted (s : State) : Prop := Accounts Config.recordCount s.liveAt s.handleOf s.account

theorem State.liveAt_lt {s : State} (h : StoreExact s) {i : Nat} (hl : s.liveAt i ≠ none) : i < Config.recordCount :=
  h.bound i fun hfree => hl (by unfold State.liveAt; rw [hfree])

/-- The sum over the live records of a cell, index by index. -/
theorem State.sumOver_eq {s : State} (h : StoreExact s) (c : CellIx) (f : Session → Stage → Nat) :
    s.sumOver c f = total Config.recordCount s.liveAt c f := by
  have hbound {i : Nat} : s.liveAt i ≠ none → i < Config.recordCount := State.liveAt_lt h
  have hsum : s.sumOver c f = ((s.liveIn c).map fun i => Live.figure (s.liveAt i) c f).sum := by
    refine congrArg List.sum (List.map_congr_left fun i hi => ?_)
    obtain ⟨ses, st, hl, hc⟩ := State.mem_liveIn.1 hi
    rw [hl, Live.figure_some hc]
  rw [hsum, ← List.sum_toFinset _ (State.liveIn_nodup h.canonical c)]
  generalize Config.recordCount = n at *
  refine Finset.sum_subset (fun i hi => ?_) fun i _ hi => ?_
  · obtain ⟨ses, st, hl, -⟩ := State.mem_liveIn.1 (List.mem_toFinset.1 hi)
    exact Finset.mem_range.2 (hbound (by rw [hl]; exact fun hn => nomatch hn))
  · rcases hl : s.liveAt i with _ | ⟨ses, st⟩
    · rfl
    · exact Live.figure_elsewhere (fun hc => hi (List.mem_toFinset.2 (State.mem_liveIn.2 ⟨ses, st, hl, hc⟩))) f

theorem State.emergencyAt_eq (s : State) (i : Nat) : s.emergencyAt i = Live.urgent (s.liveAt i) := rfl

theorem State.levelAt_live (s : State) (i : Nat) : s.levelAt i = Live.level (s.liveAt i) := rfl

theorem State.cellExact_iff {s : State} (h : StoreExact s) (c : CellIx) :
    s.cellExact c ↔ Booked Config.recordCount s.liveAt c (s.account c) := by
  unfold State.cellExact
  rw [State.sumOver_eq h, State.sumOver_eq h, State.sumOver_eq h]
  constructor
  · rintro ⟨hA, hC, hR, hq, ho, hw, hu, hn, hr, hl⟩
    exact ⟨hA, hC, hR, hq, ho, hw, hu, hn, hr, hl⟩
  · rintro ⟨hA, hC, hR, hq, ho, hw, hu, hn, hr, hl⟩
    exact ⟨hA, hC, hR, hq, ho, hw, hu, hn, hr, hl⟩

/-- What the record at an index owes is its demand, when it is CEDING. -/
theorem Live.debt_ceding {x : Live} {v : Session} {stamp deadline : Tick} {b : Option Handle}
    (h : x = some (v, .ceding stamp b deadline)) : Bond.debt x.bond = v.demand := by
  subst h
  rfl

theorem State.demandAt_live {s : State} {i : Nat} {ses : Session} {st : Stage} (h : s.liveAt i = some (ses, st)) :
    s.demandAt i = ses.demand := by
  unfold State.demandAt
  rw [h]

/-- A bond is held by a HELD record alone. -/
theorem Live.bond_held {x : Live} {c : CellIx} {l need collected : Nat} {vs : List Nat}
    (h : x.bond = some (.held c l vs need collected)) : ∃ ses victims reserved,
      x = some (ses, .held victims need reserved collected) ∧ ses.key.cell = c ∧ ses.level = l ∧ victims.map Handle.index = vs := by
  rcases x with _ | ⟨ses, st⟩
  · cases h
  · cases st with
    | held victims need reserved collected =>
      cases h
      exact ⟨ses, victims, reserved, rfl, rfl, rfl, rfl⟩
    | _ => cases h

theorem Live.bond_owes {x : Live} {c : CellIx} {l d : Nat} {b : Option Nat} (h : x.bond = some (.owes c l d b)) :
    ∃ ses stamp o deadline, x = some (ses, .ceding stamp o deadline) ∧ ses.key.cell = c ∧ ses.level = l ∧ ses.demand = d
      ∧ o.map Handle.index = b := by
  rcases x with _ | ⟨ses, st⟩
  · cases h
  · cases st with
    | ceding stamp o deadline =>
      cases h
      exact ⟨ses, stamp, o, deadline, rfl, rfl, rfl, rfl, rfl⟩
    | _ => cases h

/-- The bonds of the model, by indices (R55, R56). -/
theorem State.bonds_of_exact {s : State} (h : ∀ i, s.heldExact i ∧ s.cedingExact i) :
    (Bonded fun i => Live.bond (s.liveAt i)) ∧ Current s.liveAt s.handleOf := by
  have hcurrent : Current s.liveAt s.handleOf := by
    intro i o ho
    rcases hl : s.liveAt i with _ | ⟨ses, st⟩
    · rw [hl] at ho
      exact nomatch ho
    · rw [hl] at ho
      rcases st with _ | _ | _ | _ | ⟨_, _ | b, _⟩
      case held =>
        obtain ⟨-, -, -, -, -, hv⟩ := (h i).1 _ _ _ _ _ hl
        obtain ⟨_, _, _, hnamed, -, -⟩ := hv o ho
        exact hnamed.2.1
      case ceding.some =>
        obtain ⟨_, _, _, _, _, hnamed, -⟩ := (h i).2 _ _ _ _ hl
        rw [List.mem_singleton.1 ho]
        exact hnamed.2.1
      all_goals exact nomatch ho
  refine ⟨⟨fun i c l vs need collected hb => ?_, fun j c l d i hb => ?_⟩, hcurrent⟩
  · obtain ⟨ses, victims, reserved, hl, rfl, rfl, rfl⟩ := Live.bond_held hb
    obtain ⟨hsome, hfew, hnodup, hshort, henough, hv⟩ := (h i).1 _ _ _ _ _ hl
    have howing (j : Nat) (hj : j ∈ victims.map Handle.index) : ∃ v stamp deadline,
        s.liveAt j = some (v, .ceding stamp (some (s.handleOf i)) deadline) ∧ v.key.cell = ses.key.cell ∧ v.level < ses.level := by
      obtain ⟨o, ho, rfl⟩ := List.mem_map.1 hj
      obtain ⟨v, stamp, deadline, hnamed, hcell, hlevel⟩ := hv o ho
      exact ⟨v, stamp, deadline, hnamed.1, hcell, hlevel⟩
    refine ⟨by rwa [List.length_map], by rwa [List.length_map], ?_, hshort, henough.trans_eq ?_, fun j hj => ?_⟩
    · refine hnodup.map_on fun a ha b hb hab => ?_
      obtain ⟨_, _, _, hna, -, -⟩ := hv a ha
      obtain ⟨_, _, _, hnb, -, -⟩ := hv b hb
      rw [← hna.2.1, ← hnb.2.1, hab]
    · rw [List.map_map]
      refine congrArg (collected + List.sum ·) (List.map_congr_left fun o ho => ?_)
      obtain ⟨v, stamp, deadline, hl', -, -⟩ := howing o.index (List.mem_map_of_mem ho)
      exact (State.demandAt_live hl').trans (Live.debt_ceding hl').symm
    · obtain ⟨v, stamp, deadline, hl', hcell, hlevel⟩ := howing j hj
      refine ⟨v.level, v.demand, ?_, hlevel⟩
      rw [hl', ← hcell]
      rfl
  · obtain ⟨ses, stamp, o, deadline, hl, rfl, rfl, rfl, ho⟩ := Live.bond_owes hb
    cases o with
    | none => cases ho
    | some b =>
      obtain rfl : b.index = i := Option.some.inj ho
      obtain ⟨w, victims, need, reserved, collected, hnamed, hmem⟩ := (h j).2 _ _ _ _ hl
      refine ⟨w.key.cell, w.level, victims.map Handle.index, need, collected, congrArg Live.bond hnamed.1, ?_⟩
      exact List.mem_map.2 ⟨s.handleOf j, hmem, rfl⟩

/-- The bonds of the model from those by indices (R55, R56). -/
theorem State.exact_of_bonds {s : State} (hstore : StoreExact s) (h : Bonded fun i => Live.bond (s.liveAt i))
    (hcurrent : Current s.liveAt s.handleOf) (i : Nat) : s.heldExact i ∧ s.cedingExact i := by
  have hgeneration {o : Handle} (ho : s.handleOf o.index = o) : o.generation ≠ 0 := by
    have := (hstore.generation o.index).1
    rw [← ho]
    show (s.record o.index).generation ≠ 0
    omega
  constructor
  · intro ses victims need reserved collected hl
    have hcovers := h.held i _ _ _ _ _ (congrArg Live.bond hl)
    have hv (o : Handle) (ho : o ∈ victims) : s.handleOf o.index = o := hcurrent i o (by rw [hl]; exact ho)
    have howing (o : Handle) (ho : o ∈ victims) : ∃ v stamp deadline,
        s.liveAt o.index = some (v, .ceding stamp (some (s.handleOf i)) deadline) ∧ v.key.cell = ses.key.cell ∧ v.level < ses.level := by
      obtain ⟨l, d, hb, hlt⟩ := hcovers.owing o.index (List.mem_map_of_mem ho)
      obtain ⟨v, stamp, b, deadline, hl', hcell, rfl, -, hb'⟩ := Live.bond_owes hb
      cases b with
      | none => cases hb'
      | some b =>
        have hbi : b.index = i := Option.some.inj hb'
        have hbc : s.handleOf b.index = b := hcurrent o.index b (by rw [hl']; exact List.mem_singleton.2 rfl)
        rw [← hbc, hbi] at hl'
        exact ⟨v, stamp, deadline, hl', hcell, hlt⟩
    refine ⟨by simpa using hcovers.nonempty, by simpa using hcovers.few, hcovers.nodup.of_map _, hcovers.short,
      hcovers.enough.trans_eq ?_, fun o ho => ?_⟩
    · rw [List.map_map]
      refine congrArg (collected + List.sum ·) (List.map_congr_left fun o ho => ?_)
      obtain ⟨v, stamp, deadline, hl', -, -⟩ := howing o ho
      exact (Live.debt_ceding hl').trans (State.demandAt_live hl').symm
    · obtain ⟨v, stamp, deadline, hl', hcell, hlevel⟩ := howing o ho
      exact ⟨v, stamp, deadline, ⟨hl', hv o ho, hgeneration (hv o ho)⟩, hcell, hlevel⟩
  · intro ses stamp b deadline hl
    have hbc : s.handleOf b.index = b := hcurrent i b (by rw [hl]; exact List.mem_singleton.2 rfl)
    obtain ⟨c, l, vs, need, collected, hb, hmem⟩ := h.owed i _ _ _ b.index (congrArg Live.bond hl)
    obtain ⟨w, victims, reserved, hl', -, -, rfl⟩ := Live.bond_held hb
    obtain ⟨o, ho, hoi⟩ := List.mem_map.1 hmem
    have hoc : s.handleOf o.index = o := hcurrent b.index o (by rw [hl']; exact ho)
    exact ⟨w, victims, need, reserved, collected, ⟨hl', hbc, hgeneration hbc⟩, by rw [← hoi, hoc]; exact ho⟩

theorem State.accountsExact_iff {s : State} (h : StoreExact s) : s.accountsExact ↔ s.Accounted := by
  constructor
  · rintro ⟨hcells, hbonds, hsound⟩
    obtain ⟨hbonded, hcurrent⟩ := State.bonds_of_exact hbonds
    exact ⟨fun c => (State.cellExact_iff h c).1 (hcells c), hbonded, hcurrent, fun i ses st hl => hsound i ses st hl⟩
  · rintro ⟨hbooks, hbonded, hcurrent, hsound⟩
    exact ⟨fun c => (State.cellExact_iff h c).2 (hbooks c), State.exact_of_bonds h hbonded hcurrent,
      fun i ses st hl => hsound i ses st hl⟩

end Sys2Proof.Machine
end

section
/-! What the operations of the model do to the live records, their handles and the accounts. -/

namespace Sys2Proof.Machine

section
variable {s t : State} {c : CellIx} {i j : Nat} {ses v : Session} {st : Stage}

/-! ### Accounts -/

theorem State.account_modCell (s : State) (c : CellIx) (f : Cell → Cell) :
    (s.modCell c f).account = Function.update s.account c (f (s.cell c)).account := by
  funext d
  unfold State.account
  by_cases hd : d = c
  · subst hd
    rw [State.cell_modCell_self, Function.update_self]
  · rw [State.cell_modCell_ne _ _ _ _ hd, Function.update_of_ne hd]

theorem State.account_addA (s : State) (c : CellIx) (d : Nat) : (s.addA c d).account
    = Function.update s.account c { s.account c with countA := (s.account c).countA + d } := State.account_modCell ..

theorem State.account_subA (s : State) (c : CellIx) (d : Nat) : (s.subA c d).account
    = Function.update s.account c { s.account c with countA := (s.account c).countA - d } := State.account_modCell ..

theorem State.account_addC (s : State) (c : CellIx) (d : Nat) : (s.addC c d).account
    = Function.update s.account c { s.account c with countC := (s.account c).countC + d } := State.account_modCell ..

theorem State.account_subC (s : State) (c : CellIx) (d : Nat) : (s.subC c d).account
    = Function.update s.account c { s.account c with countC := (s.account c).countC - d } := State.account_modCell ..

theorem State.account_addR (s : State) (c : CellIx) (d : Nat) : (s.addR c d).account
    = Function.update s.account c { s.account c with countR := (s.account c).countR + d } := State.account_modCell ..

theorem State.account_subR (s : State) (c : CellIx) (d : Nat) : (s.subR c d).account
    = Function.update s.account c { s.account c with countR := (s.account c).countR - d } := State.account_modCell ..

theorem State.account_leaveRank (s : State) (c : CellIx) (i : Nat) : (s.leaveRank c i).account = Function.update s.account c
    { s.account c with rankList := (s.account c).rankList.filter fun j => decide (j ≠ i) } := State.account_modCell ..

theorem State.account_leaveQueue (s : State) (c : CellIx) (i : Nat) : (s.leaveQueue c i).account = Function.update s.account c
    { s.account c with
      queue := (s.account c).queue.filter fun j => decide (j ≠ i)
      enqueueOrder := (s.account c).enqueueOrder.filter fun j => decide (j ≠ i) } := State.account_modCell ..

theorem State.account_countSetup (s : State) (c : CellIx) (i : Nat) (ses : Session) :
    (s.countSetup c i ses).account = Function.update s.account c ((s.account c).counted s.levelAt i ses) := by
  unfold State.countSetup State.joinRank Account.counted
  split
  · rw [State.account_modCell, State.account_addA, Function.update_idem]
    unfold State.addA
    rw [State.cell_modCell_self]
    rfl
  · exact State.account_addA ..

theorem State.account_of_cells (h : t.cells = s.cells) : t.account = s.account := by
  funext d
  unfold State.account State.cell
  rw [h]

theorem State.account_setLive (s : State) (i : Nat) (ses : Session) (st : Stage) : (s.setLive i ses st).account = s.account := rfl

theorem State.account_raiseSession (s : State) (i : Nat) (kind : SessionNotice) (cause : Cause) :
    (s.raiseSession i kind cause).account = s.account := State.account_of_cells (by simp)

theorem State.account_unbindAll (s : State) (hs : List Handle) : (s.unbindAll hs).account = s.account :=
  State.account_of_cells (by simp)

theorem State.account_recompute (s : State) (c : CellIx) : (s.recompute c).account = s.account := by
  funext d
  unfold State.account
  by_cases hd : d = c
  · subst hd
    rcases State.recompute_cell s d with h | h <;> rw [h] <;> rfl
  · rw [State.recompute_cell_ne _ _ _ hd]

theorem State.account_butPending (h : CellsButPending s t) : t.account = s.account := by
  funext d
  obtain ⟨b, hb⟩ := h d
  unfold State.account
  rw [hb]
  rfl

theorem State.account_takeRecord (s : State) (ses : Session) (st : Stage) : (s.takeRecord ses st).account = s.account := by
  unfold State.takeRecord
  split
  · rfl
  · dsimp only
    split <;> rfl

/-! ### Live records -/

theorem State.liveAt_setLive_eq (s : State) (i : Nat) (ses : Session) (st : Stage) :
    (s.setLive i ses st).liveAt = Function.update s.liveAt i (some (ses, st)) := by
  funext j
  rw [State.liveAt_setLive, Function.update_apply]

theorem State.liveAt_recompute (s : State) (c : CellIx) : (s.recompute c).liveAt = s.liveAt := funext fun _ => by simp

theorem State.liveAt_raiseSession (s : State) (i : Nat) (kind : SessionNotice) (cause : Cause) :
    (s.raiseSession i kind cause).liveAt = s.liveAt := funext fun _ => by simp

theorem State.liveAt_modCell (s : State) (c : CellIx) (f : Cell → Cell) : (s.modCell c f).liveAt = s.liveAt := rfl

theorem State.liveAt_countSetup (s : State) (c : CellIx) (i : Nat) (ses : Session) : (s.countSetup c i ses).liveAt = s.liveAt := by
  unfold State.countSetup State.joinRank
  split <;> rfl

theorem State.liveAt_of_record {i : Nat} (h : t.record i = s.record i) : t.liveAt i = s.liveAt i := by
  unfold State.liveAt
  rw [h]

theorem Record.unbound_liveAt (hr : t.record i = (s.record i).unbound) : t.liveAt i = Live.unbound (s.liveAt i) := by
  unfold State.liveAt
  rw [hr]
  unfold Record.unbound
  rcases hl : (s.record i).life with _ | ⟨ses, st⟩ | _
  · simp only [hl]
    rfl
  · cases st <;> simp only [hl] <;> rfl
  · simp only [hl]
    rfl

theorem State.liveAt_unbindAll (s : State) {hs : List Handle} (h : ∀ o ∈ hs, s.handleOf o.index = o) :
    (s.unbindAll hs).liveAt = freedLive (hs.map Handle.index) s.liveAt := by
  funext j
  have hmem : s.handleOf j ∈ hs ↔ j ∈ hs.map Handle.index := by
    rw [List.mem_map]
    constructor
    · exact fun hm => ⟨_, hm, rfl⟩
    · rintro ⟨o, ho, rfl⟩
      rwa [h o ho]
  have hr := State.unbindAll_record hs s j
  unfold freedLive
  by_cases hj : s.handleOf j ∈ hs
  · rw [if_pos hj] at hr
    rw [if_pos (hmem.1 hj)]
    exact Record.unbound_liveAt hr
  · rw [if_neg hj] at hr
    rw [if_neg fun hm => hj (hmem.2 hm)]
    exact State.liveAt_of_record hr

/-! ### Retirement and takes -/

theorem State.liveAt_retire (hl : s.liveAt i = some (ses, st)) : (s.retire i).liveAt = Function.update s.liveAt i none := by
  obtain ⟨⟨hrecord, -⟩, hkept, -⟩ := State.retire_retiredFrom s i ses st hl
  funext j
  by_cases hj : j = i
  · subst hj
    rw [Function.update_self]
    unfold State.liveAt
    rw [hrecord]
    dsimp only
    cases (s.record j).pending.isSome <;> rfl
  · rw [Function.update_of_ne hj]
    exact State.liveAt_of_record (hkept j (by simpa using hj))

theorem State.handleOf_retire (hl : s.liveAt i = some (ses, st)) (hj : j ≠ i) : (s.retire i).handleOf j = s.handleOf j := by
  obtain ⟨-, hkept, -⟩ := State.retire_retiredFrom s i ses st hl
  exact State.handleOf_congr (congrArg Record.generation (hkept j (by simpa using hj)))

theorem State.account_retire (hl : s.liveAt i = some (ses, st)) :
    (s.retire i).account = Function.update s.account ses.key.cell ((s.account ses.key.cell).without i) := by
  obtain ⟨-, -, hcell, hkept, -⟩ := State.retire_retiredFrom s i ses st hl
  funext d
  by_cases hd : d = ses.key.cell
  · subst hd
    rw [Function.update_self]
    unfold State.account
    rw [hcell]
    rfl
  · rw [Function.update_of_ne hd]
    unfold State.account
    rw [hkept d (by simpa using hd)]

theorem State.liveAt_takeRecord {rest : List Nat} (hf : s.freeList = i :: rest) (ses : Session) (st : Stage) :
    (s.takeRecord ses st).liveAt = Function.update s.liveAt i (some (ses, st)) := by
  obtain ⟨⟨-, hrecord, -⟩, hkept, -⟩ := State.takeRecord_taken s ses st i rest hf
  funext j
  by_cases hj : j = i
  · subst hj
    rw [Function.update_self, State.liveAt_eq_some, hrecord]
  · rw [Function.update_of_ne hj]
    exact State.liveAt_of_record (hkept j (by simpa using hj))

theorem State.handleOf_takeRecord {rest : List Nat} (hf : s.freeList = i :: rest) (ses : Session) (st : Stage) (j : Nat) :
    (s.takeRecord ses st).handleOf j = s.handleOf j := by
  obtain ⟨⟨-, hrecord, -⟩, hkept, -⟩ := State.takeRecord_taken s ses st i rest hf
  refine State.handleOf_congr ?_
  by_cases hj : j = i
  · subst hj
    rw [hrecord]
  · rw [hkept j (by simpa using hj)]

/-! ### Accounted states -/

theorem State.Accounted.same (h : s.Accounted) (hlive : t.liveAt = s.liveAt) (hhandle : ∀ i, t.handleOf i = s.handleOf i)
    (haccount : t.account = s.account) : t.Accounted := by
  unfold State.Accounted
  rw [hlive, haccount]
  exact Accounts.same h (fun j => .refl _) hhandle rfl

theorem State.Accounted.raiseSession (h : s.Accounted) (i : Nat) (kind : SessionNotice) (cause : Cause) :
    (s.raiseSession i kind cause).Accounted :=
  h.same (State.liveAt_raiseSession ..) (fun j => (Relived.raiseSession s i kind cause).handleOf j) (State.account_raiseSession ..)

end

end Sys2Proof.Machine
end

section
/-! The accounts and bonds through retirement and queue service. -/

namespace Sys2Proof.Machine

section
variable {s x : State} {c : CellIx} {i j : Nat} {ses v : Session} {st : Stage} {vs : List Nat}

/-! ### Retirement -/

/-- The live records and accounts after a victim exit that leaves its beneficiary HELD (R58). -/
theorem State.victimExit_short {b : Handle} {w : Session} {victims : List Handle} {need reserved collected : Nat}
    (hb : s.named b w (.held victims need reserved collected)) (hc : v.key.cell = c) (hshort : collected + v.demand < need) :
    (s.victimExit i v (some b)).liveAt = Function.update s.liveAt b.index (some (w,
        .held (victims.filter fun o => decide (o ≠ s.handleOf i)) need reserved (collected + v.demand)))
      ∧ (s.victimExit i v (some b)).account = Function.update s.account c { s.account c with
        countC := (s.account c).countC - v.demand, countR := (s.account c).countR + v.demand } := by
  subst hc
  have htake : min v.demand (need - collected) = v.demand := by omega
  have hpass := State.passUnits_held (s := s.subC v.key.cell v.demand) (c := v.key.cell) (victim := s.handleOf i) (v := v.demand)
    hb rfl rfl rfl
  rw [htake, if_neg (by omega)] at hpass
  unfold State.victimExit
  dsimp only
  rw [hpass, State.liveAt_recompute, State.account_recompute]
  refine ⟨State.liveAt_setLive_eq .., ?_⟩
  rw [State.account_setLive, State.account_addR, State.account_subC, Function.update_self, Function.update_idem]

/-- The live records and accounts after a victim exit that promotes its beneficiary (R58, R60 to R62). -/
theorem State.victimExit_meets {b : Handle} {w : Session} {victims : List Handle} {need reserved collected : Nat}
    (hb : s.named b w (.held victims need reserved collected)) (hcurrent : ∀ o ∈ victims, s.handleOf o.index = o)
    (hc : v.key.cell = c) (hmeets : collected + min v.demand (need - collected) = need) :
    ∃ f : Nat → Nat, (∀ a, f a = Live.level (s.liveAt a))
      ∧ (s.victimExit i v (some b)).liveAt = Function.update
        (freedLive ((victims.filter fun o => decide (o ≠ s.handleOf i)).map Handle.index) s.liveAt) b.index
        (some (w, setupStage s.tick w))
      ∧ (s.victimExit i v (some b)).account = Function.update s.account c (Account.counted { s.account c with
        countC := (s.account c).countC - v.demand
        countR := (s.account c).countR + min v.demand (need - collected) - (reserved + need) } f b.index w) := by
  subst hc
  generalize htake : min v.demand (need - collected) = take at hmeets
  generalize hleft : (victims.filter fun o => decide (o ≠ s.handleOf i)) = left
  have hpass := State.passUnits_held (s := s.subC v.key.cell v.demand) (c := v.key.cell) (victim := s.handleOf i) (v := v.demand)
    hb htake.symm hleft.symm rfl
  rw [if_pos hmeets] at hpass
  generalize hy : ((s.subC v.key.cell v.demand).addR v.key.cell take).setLive b.index w (.held left need reserved (collected + take)) = y
    at hpass
  have hylive : y.liveAt = Function.update s.liveAt b.index (some (w, .held left need reserved (collected + take))) := by
    rw [← hy]
    exact State.liveAt_setLive_eq ..
  have hyhandle (a : Nat) : y.handleOf a = s.handleOf a := by
    rw [← hy]
    exact State.handleOf_congr (State.generation_setLive ..)
  have hyaccount : y.account = Function.update s.account v.key.cell { s.account v.key.cell with
      countC := (s.account v.key.cell).countC - v.demand, countR := (s.account v.key.cell).countR + take } := by
    rw [← hy, State.account_setLive, State.account_addR, State.account_subC, Function.update_self, Function.update_idem]
  have hytick : y.tick = s.tick := by rw [← hy]; rfl
  have hunbound : ((y.subR v.key.cell (reserved + need)).unbindAll left).liveAt = freedLive (left.map Handle.index) y.liveAt := by
    refine State.liveAt_unbindAll _ fun o ho => ?_
    rw [← hleft] at ho
    exact (hyhandle _).trans (hcurrent o (List.mem_of_mem_filter ho))
  have hlive : (((y.subR v.key.cell (reserved + need)).unbindAll left).setLive b.index w (setupStage y.tick w)).liveAt
      = Function.update (freedLive (left.map Handle.index) s.liveAt) b.index (some (w, setupStage s.tick w)) := by
    rw [State.liveAt_setLive_eq, hunbound, hylive, hytick]
    funext a
    by_cases ha : a = b.index
    · rw [ha, Function.update_self, Function.update_self]
    · rw [Function.update_of_ne ha, Function.update_of_ne ha]
      unfold freedLive
      rw [Function.update_of_ne ha]
  refine ⟨(((y.subR v.key.cell (reserved + need)).unbindAll left).setLive b.index w (setupStage y.tick w)).levelAt, fun a => ?_,
    ?_, ?_⟩
  · rw [State.levelAt_live, hlive]
    by_cases ha : a = b.index
    · rw [ha, Function.update_self, hb.1]
      rfl
    · rw [Function.update_of_ne ha]
      unfold freedLive
      split
      · exact (Live.alike_unbound _).level
      · rfl
  · unfold State.victimExit
    dsimp only
    rw [hpass, State.liveAt_recompute]
    unfold State.promote
    rw [State.liveAt_raiseSession, State.liveAt_countSetup]
    exact hlive
  · unfold State.victimExit
    dsimp only
    rw [hpass, State.account_recompute]
    unfold State.promote
    rw [State.account_raiseSession, State.account_countSetup, State.account_setLive, State.account_unbindAll, State.account_subR,
      Function.update_self, hyaccount, Function.update_self, Function.update_idem, Function.update_idem]

/-- A record that stands on no rank list can leave before another joins it. -/
theorem Account.counted_without {k : Account} {f : Nat → Nat} (hj : j ∉ k.rankList) (hne : j ≠ i) :
    (k.counted f i ses).without j = (k.without j).counted f i ses := by
  have hself := filter_ne_self hj
  obtain ⟨ahead, behind, hlist, hinsert, -⟩ := newRecordsTakeTheirPlaces.2 f i ses.level k.rankList
  have hmem : j ∉ rankInsert f i ses.level k.rankList := by
    rw [hlist] at hj
    rw [hinsert]
    simpa [hne] using hj
  unfold Account.counted Account.without
  dsimp only
  rw [hself]
  split
  · rw [filter_ne_self hmem]
  · rw [hself]

/-- The change of a record's state and its retirement leave the accounts exact (R11, R58, R64). -/
theorem State.Accounted.retired (hstore : StoreExact s) (h : s.Accounted) (hl : s.liveAt i = some (ses, st))
    (hlive : x.liveAt = (s.giveUp i ses st).liveAt) (hhandle : ∀ j, x.handleOf j = s.handleOf j)
    (haccount : x.account = (s.giveUp i ses st).account) : (x.retire i).Accounted := by
  obtain ⟨st', hst'⟩ := State.giveUp_live s i ses st hl
  have hx : x.liveAt i = some (ses, st') := by rw [hlive]; exact hst'
  have hgone (j : Nat) (hj : j ≠ i) : (x.retire i).handleOf j = s.handleOf j := (State.handleOf_retire hx hj).trans (hhandle j)
  have hn (j : Nat) (hj : s.liveAt j ≠ none) : j < Config.recordCount := State.liveAt_lt hstore hj
  have hi : i < Config.recordCount := hn i (by rw [hl]; exact fun hx => nomatch hx)
  unfold State.Accounted
  rw [State.liveAt_retire hx, State.account_retire hx, hlive, haccount]
  clear hst' hx hlive haccount
  have hbooks (c : CellIx) := h.books c
  have hnamed {b : Handle} (hcurrent : s.handleOf b.index = b) {w : Session} {st : Stage} (hb : s.liveAt b.index = some (w, st)) :
      s.named b w st := by
    refine ⟨hb, hcurrent, ?_⟩
    have := (hstore.generation b.index).1
    rw [← hcurrent]
    show (s.record b.index).generation ≠ 0
    omega
  cases st with
  | queued arrival va deadline => exact h.leave hi hl (.inl rfl) hgone
  | setup stamp deadline =>
    have hleft := h.leave hi hl (.inl rfl) hgone
    unfold State.giveUp
    rw [State.liveAt_recompute, State.account_recompute, State.account_subA, Function.update_self, Function.update_idem]
    exact hleft
  | active stamp =>
    have hleft := h.leave hi hl (.inl rfl) hgone
    unfold State.giveUp
    rw [State.liveAt_recompute, State.account_recompute, State.account_subA, Function.update_self, Function.update_idem]
    exact hleft
  | held victims need reserved collected =>
    have hleft := h.withdraw hi hl hgone
    have hcurrent : ∀ o ∈ victims, s.handleOf o.index = o := fun o ho => h.current i o (by rw [hl]; exact ho)
    have hchange : (s.giveUp i ses (.held victims need reserved collected)).liveAt = freedLive (victims.map Handle.index) s.liveAt
        ∧ (s.giveUp i ses (.held victims need reserved collected)).account = Function.update s.account ses.key.cell
          { s.account ses.key.cell with countR := (s.account ses.key.cell).countR - (reserved + collected) } := by
      have hlive := State.liveAt_unbindAll (s.subR ses.key.cell (reserved + collected)) hcurrent
      have haccount := (State.account_unbindAll (s.subR ses.key.cell (reserved + collected)) victims).trans
        (State.account_subR s ses.key.cell (reserved + collected))
      unfold State.giveUp State.withdrawHeld
      dsimp only
      split
      · exact ⟨hlive, haccount⟩
      · exact ⟨(State.liveAt_recompute ..).trans hlive, (State.account_recompute ..).trans haccount⟩
    rw [hchange.1, hchange.2, Function.update_self, Function.update_idem]
    exact hleft
  | ceding stamp b deadline =>
    cases b with
    | none =>
      have hleft := h.leave hi hl (.inr ⟨_, _, _, rfl⟩) hgone
      unfold State.giveUp State.victimExit
      dsimp only
      rw [State.liveAt_recompute, State.account_recompute, State.account_subC, Function.update_self, Function.update_idem]
      exact hleft
    | some b =>
      obtain ⟨w, victims, need, reserved, collected, hb, -, -, hcurrent, -, hshort⟩ := Accounts.bond h hl
      unfold State.giveUp
      dsimp only
      by_cases hmeets : collected + min ses.demand (need - collected) = need
      · obtain ⟨f, hf, hlive, haccount⟩ := State.victimExit_meets (i := i) (c := ses.key.cell) (hnamed hcurrent hb)
          (fun o ho => h.current b.index o (by rw [hb]; exact ho)) rfl hmeets
        rw [hlive, haccount, Function.update_self, Function.update_idem]
        have hne : i ≠ b.index := by
          rintro rfl
          rw [hl] at hb
          cases hb
        rw [Account.counted_without (by exact (hbooks _).not_mem_rank hl rfl) hne]
        exact Accounts.complete (handle' := (x.retire i).handleOf) (st := setupStage s.tick w) (f := f) h (fun _ => rfl) hn hl hb
          rfl hmeets rfl (by rw [hf, hb]; rfl) (fun a _ => hf a) hgone
      · obtain ⟨hlive, haccount⟩ := State.victimExit_short (i := i) (c := ses.key.cell) (hnamed hcurrent hb) rfl
          (by omega : collected + ses.demand < need)
        rw [hlive, haccount, Function.update_self, Function.update_idem]
        exact Accounts.pass h (fun _ => rfl) hn hl hb rfl (by omega) hgone

end

end Sys2Proof.Machine
end

section
/-! The accounts and bonds through queue service and preemption decisions. -/

namespace Sys2Proof.Machine

section
variable {s t x : State} {c : CellIx} {i j : Nat} {ses v : Session} {st : Stage} {vs rest : List Nat}

/-! ### Queue heads -/

/-- The record at the head of a queue is QUEUED in its cell. -/
theorem State.Accounted.head (h : s.Accounted) (hq : (s.cell c).queue = i :: rest) (hl : s.liveAt i = some (ses, st)) :
    ses.key.cell = c ∧ st.isQueued = true := by
  have hm : i ∈ (s.account c).queue := by
    show i ∈ (s.cell c).queue
    rw [hq]
    exact List.mem_cons_self
  rw [(h.books c).queued, hl] at hm
  exact Live.waits_some.1 hm

theorem Stage.not_admitted_of_queued (h : st.isQueued = true) : st.isAdmitted = false := by
  cases st with
  | queued => rfl
  | _ => cases h

theorem Live.unbonded_queued (ses : Session) (h : st.isQueued = true) : Live.Unbonded (some (ses, st)) := by
  cases st with
  | queued => exact .inl rfl
  | _ => cases h

/-- The account of a cell without a record of its queue. -/
theorem Booked.remove_queued {n : Nat} {live : Nat → Live} {k : Account} (h : Booked n live c k) (hl : live i = some (ses, st))
    (hst : st.isQueued = true) : k.remove i ses st = { k with
      queue := k.queue.filter fun j => decide (j ≠ i), enqueueOrder := k.enqueueOrder.filter fun j => decide (j ≠ i) } := by
  have hrank := filter_ne_self (h.not_mem_rank hl (Stage.not_admitted_of_queued hst))
  cases st with
  | queued arrival va deadline => simp only [Account.remove, countsA, countsC, countsR, hrank, Nat.sub_zero]
  | _ => cases hst

/-- A queue head that fits enters SETUP (R83). -/
theorem State.Accounted.serveHead (hstore : StoreExact s) (h : s.Accounted) (hq : (s.cell c).queue = i :: rest)
    (hl : s.liveAt i = some (ses, st)) : (s.serveHead c i ses).Accounted := by
  obtain ⟨hc, hst⟩ := h.head hq hl
  subst hc
  have hi : i < Config.recordCount := State.liveAt_lt hstore (by rw [hl]; exact fun hx => nomatch hx)
  have hset : ((s.leaveQueue ses.key.cell i).setLive i ses (setupStage s.tick ses)).liveAt
      = Function.update s.liveAt i (some (ses, setupStage s.tick ses)) := State.liveAt_setLive_eq ..
  have hleft := Accounts.leave h hi hl (Live.unbonded_queued ses hst) fun _ _ => rfl
  have hbook := hleft.books ses.key.cell
  have hadds := Account.Adds.counted (st := setupStage s.tick ses)
    (f := ((s.leaveQueue ses.key.cell i).setLive i ses (setupStage s.tick ses)).levelAt) (ses := ses) hbook
    (Function.update_self ..) rfl (State.levelAt_setLive_self ..) fun a ha => by
      rw [State.levelAt_live, hset, Function.update_of_ne (hbook.ne_of_mem_rank (Function.update_self ..) ha),
        Function.update_of_ne (hbook.ne_of_mem_rank (Function.update_self ..) ha)]
  have hentered := hleft.enter (st := setupStage s.tick ses) (handle' := (s.serveHead ses.key.cell i ses).handleOf) hi
    (Function.update_self ..) rfl (.inl rfl) (by rintro _ _ ⟨⟩; exact h.sound i _ _ hl) hadds fun j => ?_
  · rw [Function.update_idem, Function.update_idem, Function.update_self, (h.books _).remove_queued hl hst] at hentered
    unfold State.Accounted State.serveHead
    rw [State.liveAt_recompute, State.liveAt_raiseSession, State.liveAt_countSetup, hset, State.account_recompute,
      State.account_raiseSession, State.account_countSetup, State.account_setLive, State.account_leaveQueue, Function.update_self,
      Function.update_idem]
    exact hentered
  · have hset : Relived s ((s.leaveQueue ses.key.cell i).setLive i ses (setupStage s.tick ses)) :=
      Relived.trans (t := s.leaveQueue ses.key.cell i) (.of_store rfl rfl rfl)
        (.setLive (s := s.leaveQueue ses.key.cell i) (State.keyAt_of_live hl) _)
    exact (((hset.trans (.countSetup ..)).trans (.raiseSession ..)).trans (.recompute ..)).handleOf j

/-! ### Victims -/

theorem State.takeVictim_ledger (rq : Handle) (hl : s.liveAt j = some (v, st)) :
    (State.takeVictim rq c s j).liveAt = Function.update s.liveAt j
        (some (v, .ceding st.stamp (some rq) (after s.tick v.grace)))
      ∧ (State.takeVictim rq c s j).account = Function.update s.account c { s.account c with
        countA := (s.account c).countA - v.demand, countC := (s.account c).countC + v.demand
        rankList := (s.account c).rankList.filter fun a => decide (a ≠ j) } := by
  unfold State.takeVictim
  rw [hl]
  dsimp only
  rw [State.liveAt_raiseSession, State.account_raiseSession, State.account_setLive, State.account_addC, State.account_subA,
    State.account_leaveRank, Function.update_self, Function.update_self, Function.update_idem, Function.update_idem]
  exact ⟨State.liveAt_setLive_eq .., rfl⟩

/-- The live records and the books while victims are taken for a requester that is not counted yet (R52). -/
theorem Books.takeVictims (rq : Handle) (hn : ∀ j, s.liveAt j ≠ none → j < Config.recordCount)
    (hbooks : Books Config.recordCount (Function.update s.liveAt i none) s.account) (hnodup : vs.Nodup) (hi : i ∉ vs)
    (hvs : ∀ j ∈ vs, ∃ v st, s.liveAt j = some (v, st) ∧ v.key.cell = c ∧ st.isAdmitted = true) :
    Books Config.recordCount (Function.update (s.takeVictims rq c vs).liveAt i none) (s.takeVictims rq c vs).account
      ∧ (∀ j, j ∉ vs → (s.takeVictims rq c vs).liveAt j = s.liveAt j)
      ∧ ∀ j ∈ vs, ∀ v st, s.liveAt j = some (v, st) → ∃ stamp deadline,
        (s.takeVictims rq c vs).liveAt j = some (v, .ceding stamp (some rq) deadline) := by
  induction vs generalizing s with
  | nil => exact ⟨hbooks, fun _ _ => rfl, fun _ hj => nomatch hj⟩
  | cons j vs ih =>
    obtain ⟨hj, hnodup⟩ := List.nodup_cons.1 hnodup
    obtain ⟨hij, hi⟩ := not_or.1 (List.mem_cons.not.1 hi)
    obtain ⟨v, st, hl, hc, hst⟩ := hvs j List.mem_cons_self
    obtain ⟨hlive, haccount⟩ := State.takeVictim_ledger (c := c) rq hl
    have hlt : j < Config.recordCount := hn j (by rw [hl]; exact fun hx => nomatch hx)
    have hne {a : Nat} (ha : a ∈ vs) : a ≠ j := fun he => hj (he ▸ ha)
    have hlj : Function.update s.liveAt i none j = some (v, st) := (Function.update_of_ne (Ne.symm hij) ..).trans hl
    have hqueue := filter_ne_self ((hbooks c).not_mem_queue hlj (counts_admitted v hst).2.2.2)
    have horder := filter_ne_self ((hbooks c).not_mem_order hlj (counts_admitted v hst).2.2.2)
    obtain ⟨hA, hC, hR, -⟩ := counts_admitted v hst
    have hswapped := hbooks.swap (ses' := v) (st' := .ceding st.stamp (some rq) (after s.tick v.grace)) hlt hlj hc hc
      (k' := { s.account c with
        countA := (s.account c).countA - v.demand, countC := (s.account c).countC + v.demand
        rankList := (s.account c).rankList.filter fun a => decide (a ≠ j) }) {
          countA := by simp only [Account.remove, hA]; rfl
          countC := by simp only [Account.remove, hC]; rfl
          countR := by simp only [Account.remove, hR]; rfl
          queued := fun hq => nomatch hq
          unqueued := fun _ => ⟨hqueue.symm, horder.symm⟩
          ranked := fun hr => nomatch hr.1
          unranked := fun _ => rfl }
    have hstep : Books Config.recordCount (Function.update (State.takeVictim rq c s j).liveAt i none)
        (State.takeVictim rq c s j).account := by
      rw [hlive, haccount, Function.update_comm (Ne.symm hij)]
      exact hswapped
    have hbound (a : Nat) (ha : (State.takeVictim rq c s j).liveAt a ≠ none) : a < Config.recordCount := by
      by_cases haj : a = j
      · exact haj ▸ hlt
      · rw [hlive, Function.update_of_ne haj] at ha
        exact hn a ha
    have hrest (a : Nat) (ha : a ∈ vs) : ∃ v st, (State.takeVictim rq c s j).liveAt a = some (v, st) ∧ v.key.cell = c
        ∧ st.isAdmitted = true := by
      rw [hlive, Function.update_of_ne (hne ha)]
      exact hvs a (List.mem_cons_of_mem _ ha)
    obtain ⟨hdone, hkept, hceding⟩ := ih hbound hstep hnodup hi hrest
    refine ⟨hdone, fun a ha => ?_, fun a ha w sw hw => ?_⟩
    · obtain ⟨haj, hav⟩ := not_or.1 (List.mem_cons.not.1 ha)
      exact (hkept a hav).trans (by rw [hlive, Function.update_of_ne haj])
    · rcases List.mem_cons.1 ha with rfl | hav
      · obtain ⟨rfl, rfl⟩ := Prod.mk.inj (Option.some.inj (hl.symm.trans hw))
        exact ⟨_, _, (hkept a hj).trans (by rw [hlive, Function.update_self])⟩
      · exact hceding a hav w sw (by rw [hlive, Function.update_of_ne (hne hav)]; exact hw)

/-- The victims of a decision: a run from the head of the rank list, of lower level, that covers the shortfall (R51, R52). -/
theorem State.victimsFor_spec (hbook : Booked Config.recordCount s.liveAt c (s.account c))
    (hfit : ¬ ses.demand ≤ (s.cell c).headroom ses.emergency) (hvs : s.victimsFor c ses = some vs) :
    vs.Nodup ∧ vs.length ≤ 4 ∧ 1 ≤ (s.cell c).shortfall ses.emergency ses.demand
      ∧ (s.cell c).shortfall ses.emergency ses.demand ≤ (vs.map s.demandAt).sum
      ∧ ∀ j ∈ vs, ∃ v st, s.liveAt j = some (v, st) ∧ v.key.cell = c ∧ st.isAdmitted = true ∧ v.level < ses.level := by
  have hshort : 1 ≤ (s.cell c).shortfall ses.emergency ses.demand := by
    unfold Cell.headroom at hfit
    unfold Cell.shortfall
    omega
  unfold State.victimsFor at hvs
  dsimp only at hvs
  split at hvs
  · next hcovers =>
    cases hvs
    generalize hr : s.victimWalk ses.level ((s.cell c).shortfall ses.emergency ses.demand) Config.maxVictims 0 (s.cell c).rankList = r
      at hcovers
    obtain ⟨left, hlist, hsum, hlen, hlevels, -⟩ := State.victimWalk_spec s _ _ _ 0 _ r.1 r.2 hshort hr
    have hmem : ∀ j ∈ r.1, j ∈ (s.account c).rankList := fun j hj => by
      show j ∈ (s.cell c).rankList
      rw [hlist]
      exact List.mem_append_left _ hj
    refine ⟨?_, hlen, hshort, by omega, fun j hj => ?_⟩
    · have hnodup : (r.1 ++ left).Nodup := hlist ▸ hbook.rankNodup
      exact (List.nodup_append.1 hnodup).1
    · obtain ⟨v, st, hl, hc, hst, -⟩ := (hbook.ranked j).1 (hmem j hj)
      have hlevel := hlevels j hj
      rw [State.levelAt_live, hl] at hlevel
      exact ⟨v, st, hl, hc, hst, hlevel⟩
  · cases hvs

end

end Sys2Proof.Machine
end

section
/-! The accounts and bonds through preemption decisions, of a queue head and of a newcomer (3.6, 4.6). -/

namespace Sys2Proof.Machine

section
variable {s t x : State} {c : CellIx} {i j : Nat} {ses v : Session} {st : Stage} {vs rest : List Nat}

/-- The stage of a requester after its decision (R53). -/
theorem State.heldStage_eq (s : State) (c : CellIx) (ses : Session) (vs : List Nat) : s.heldStage c ses vs
    = .held (vs.map s.handleOf) ((s.cell c).shortfall ses.emergency ses.demand) ((s.cell c).headroom ses.emergency) 0 := rfl

/-- A requester that is not counted yet takes its victims and enters HELD (R52, R53). -/
theorem State.Accounted.requester (hstore : StoreExact s) (h : s.Accounted) (hi : i < Config.recordCount)
    {account : CellIx → Account} (hgone : Accounts Config.recordCount (Function.update s.liveAt i none) s.handleOf account)
    (hxlive : x.liveAt = s.liveAt) (hxbooks : Books Config.recordCount (Function.update s.liveAt i none) x.account)
    (hc : ses.key.cell = c) (hs : Live.Sound (some (ses, st)))
    (hunadmitted : ∀ v sv, s.liveAt i = some (v, sv) → sv.isAdmitted = false)
    (hfit : ¬ ses.demand ≤ (s.cell c).headroom ses.emergency) (hvs : s.victimsFor c ses = some vs)
    (htlive : t.liveAt = Function.update (x.takeVictims (s.handleOf i) c vs).liveAt i (some (ses, s.heldStage c ses vs)))
    (htaccount : t.account = Function.update (x.takeVictims (s.handleOf i) c vs).account c
      { (x.takeVictims (s.handleOf i) c vs).account c with
        countR := ((x.takeVictims (s.handleOf i) c vs).account c).countR + (s.cell c).headroom ses.emergency })
    (hthandle : ∀ j, t.handleOf j = s.handleOf j) : t.Accounted := by
  obtain ⟨hnodup, hfew, hneed, hcovers, hvictims⟩ := State.victimsFor_spec (h.books c) hfit hvs
  have hivs : i ∉ vs := by
    intro hm
    obtain ⟨v, sv, hl, -, hadmitted, -⟩ := hvictims i hm
    rw [hunadmitted v sv hl] at hadmitted
    cases hadmitted
  have hne {a : Nat} (ha : a ∈ vs) : a ≠ i := fun he => hivs (he ▸ ha)
  have hn (a : Nat) (ha : x.liveAt a ≠ none) : a < Config.recordCount := by
    rw [hxlive] at ha
    exact State.liveAt_lt hstore ha
  obtain ⟨hbooks, hkept, hceding⟩ := Books.takeVictims (s.handleOf i) (i := i) (c := c) (vs := vs) hn
    (by rw [hxlive]; exact hxbooks) hnodup hivs fun a ha => by
      obtain ⟨v, st, hl, hcell, hst, -⟩ := hvictims a ha
      exact ⟨v, st, by rw [hxlive]; exact hl, hcell, hst⟩
  have hentered := hbooks.enter (ses := ses) (st := s.heldStage c ses vs) (c := c) (k :=
    { (x.takeVictims (s.handleOf i) c vs).account c with
      countR := ((x.takeVictims (s.handleOf i) c vs).account c).countR + (s.cell c).headroom ses.emergency }) hi
    (Function.update_self ..) hc
    { countA := rfl
      countC := rfl
      countR := rfl
      queued := fun hq => nomatch hq
      unqueued := fun _ => ⟨rfl, rfl⟩
      ranked := fun hr => nomatch hr.1
      unranked := fun _ => rfl }
  rw [Function.update_idem] at hentered
  refine Accounts.bind (i := i) (vs := vs) (ses := ses) (st := st) hgone (fun _ => rfl) (Function.update_self ..) (fun a ha => ?_)
    hnodup hfew hneed hs (hcovers.trans_eq ?_) (by rw [htlive, Function.update_self, State.heldStage_eq])
    (fun a ha v sv hv => ?_) (fun a hai hav => ?_) (by rw [htlive, htaccount]; exact hentered) hthandle
  · obtain ⟨v, st, hl, hcell, hst, hlevel⟩ := hvictims a ha
    exact ⟨v, st, (Function.update_of_ne (hne ha) ..).trans hl, hcell.trans hc.symm, hst, hlevel⟩
  · refine congrArg List.sum (List.map_congr_left fun a ha => ?_)
    rw [Function.update_of_ne (hne ha)]
    rfl
  · rw [Function.update_of_ne (hne ha)] at hv
    rw [htlive, Function.update_of_ne (hne ha)]
    exact hceding a ha v sv (by rw [hxlive]; exact hv)
  · rw [htlive, Function.update_of_ne hai, Function.update_of_ne hai, hkept a hav, hxlive]

/-- A queue head whose decision covers its shortfall enters HELD (R83). -/
theorem State.Accounted.holdHead (hstore : StoreExact s) (h : s.Accounted) (hq : (s.cell c).queue = i :: rest)
    (hl : s.liveAt i = some (ses, st)) (hfit : ¬ ses.demand ≤ (s.cell c).headroom ses.emergency)
    (hvs : s.victimsFor c ses = some vs) : (s.holdHead c i ses vs).Accounted := by
  obtain ⟨hc, hst⟩ := h.head hq hl
  have hi : i < Config.recordCount := State.liveAt_lt hstore (by rw [hl]; exact fun hx => nomatch hx)
  have hgone := Accounts.leave h hi hl (Live.unbonded_queued ses hst) fun _ _ => rfl
  have hleft : Relived s (s.leaveQueue c i) := .of_store rfl rfl rfl
  have htaken : Relived s ((s.leaveQueue c i).takeVictims (s.handleOf i) c vs) := hleft.trans (.takeVictims ..)
  have hunadmitted (v : Session) (sv : Stage) (hv : s.liveAt i = some (v, sv)) : sv.isAdmitted = false := by
    obtain ⟨-, rfl⟩ := Prod.mk.inj (Option.some.inj (hl.symm.trans hv))
    exact Stage.not_admitted_of_queued hst
  have hset := htaken.trans (.setLive ((htaken.keys i).trans (State.keyAt_of_live hl)) (s.heldStage c ses vs))
  refine State.Accounted.requester (x := s.leaveQueue c i) (st := st) hstore h hi hgone rfl ?_ hc (hl ▸ h.sound i)
    hunadmitted hfit hvs ?_ ?_
    ((hset.trans (.modCell ..)).trans (.recompute ..)).handleOf
  · have hbooks := hgone.books
    rw [hc, (h.books c).remove_queued hl hst] at hbooks
    rw [State.account_leaveQueue]
    exact hbooks
  · unfold State.holdHead
    dsimp only
    rw [State.liveAt_recompute]
    exact State.liveAt_setLive_eq ..
  · unfold State.holdHead
    dsimp only
    rw [State.account_recompute, State.account_addR]
    rfl

/-! ### Newcomers -/

theorem State.nextFree_eq (hf : s.freeList = i :: rest) : s.nextFree = i := by
  unfold State.nextFree
  rw [hf]
  rfl

theorem StoreExact.head_lt (hstore : StoreExact s) (hf : s.freeList = i :: rest) : i < Config.recordCount :=
  ((hstore.free i).1 (by rw [hf]; exact List.mem_cons_self)).1

theorem State.freeList_takeVictims (s : State) (rq : Handle) (c : CellIx) (vs : List Nat) :
    (s.takeVictims rq c vs).freeList = s.freeList := (Relived.takeVictims s rq c vs).freeList

/-- A newcomer whose decision covers its shortfall enters HELD (R52, R53). -/
theorem State.Accounted.admitHeld (hstore : StoreExact s) (h : s.Accounted) (hn : s.takesNewcomer ses)
    (hfit : ¬ ses.demand ≤ (s.cell ses.key.cell).headroom ses.emergency) (hvs : s.victimsFor ses.key.cell ses = some vs) :
    (s.admitHeld ses vs).Accounted := by
  obtain ⟨hne, -, hdemand, hflags⟩ := hn
  obtain ⟨i, rest, hf⟩ := List.exists_cons_of_ne_nil hne
  have hl := hstore.head_free hf
  have hnext := State.nextFree_eq hf
  have hupdate : Function.update s.liveAt i none = s.liveAt := by
    rw [← hl]
    exact Function.update_eq_self ..
  have hfree : (s.takeVictims (s.handleOf i) ses.key.cell vs).freeList = i :: rest :=
    (State.freeList_takeVictims ..).trans hf
  refine State.Accounted.requester (x := s) (i := i) (account := s.account) (st := s.heldStage ses.key.cell ses vs) hstore h
    (hstore.head_lt hf) (by rw [hupdate]; exact h) rfl (by rw [hupdate]; exact h.books) rfl
    (by rintro _ _ ⟨⟩; exact ⟨hdemand, hflags⟩)
    (fun v sv hv => nomatch hl.symm.trans hv) hfit hvs ?_ ?_ fun j => ?_
  · unfold State.admitHeld
    dsimp only
    rw [hnext, State.liveAt_recompute]
    exact State.liveAt_takeRecord hfree ..
  · unfold State.admitHeld
    dsimp only
    rw [hnext, State.account_recompute, State.account_addR, State.account_takeRecord]
  · unfold State.admitHeld
    dsimp only
    rw [hnext]
    have htaken := State.handleOf_takeRecord hfree ses (s.heldStage ses.key.cell ses vs) j
    exact ((Relived.modCell ..).trans (.recompute ..)).handleOf j |>.trans
      (htaken.trans ((Relived.takeVictims s (s.handleOf i) ses.key.cell vs).handleOf j))

/-- A newcomer that fits enters SETUP (R48). -/
theorem State.Accounted.admitPlain (hstore : StoreExact s) (h : s.Accounted) (hn : s.takesNewcomer ses) :
    (s.admitPlain ses).Accounted := by
  obtain ⟨hne, -, hdemand, hflags⟩ := hn
  obtain ⟨i, rest, hf⟩ := List.exists_cons_of_ne_nil hne
  have hl := hstore.head_free hf
  have hnext := State.nextFree_eq hf
  have hlive := State.liveAt_takeRecord hf ses (setupStage s.tick ses)
  have hbook := h.books ses.key.cell
  have hadds := Account.Adds.counted (st := setupStage s.tick ses) (f := (s.takeRecord ses (setupStage s.tick ses)).levelAt)
    (ses := ses) hbook hl rfl (by rw [State.levelAt_live, hlive, Function.update_self]; rfl) fun a ha => by
      rw [State.levelAt_live, hlive, Function.update_of_ne (hbook.ne_of_mem_rank hl ha)]
  have hadmitted : (s.admitPlain ses).liveAt = Function.update s.liveAt i (some (ses, setupStage s.tick ses))
      ∧ (s.admitPlain ses).account = Function.update s.account ses.key.cell
        ((s.account ses.key.cell).counted (s.takeRecord ses (setupStage s.tick ses)).levelAt i ses) := by
    unfold State.admitPlain
    dsimp only
    rw [State.liveAt_recompute, State.liveAt_countSetup, hlive, State.account_recompute, State.account_countSetup,
      State.account_takeRecord, hnext]
    exact ⟨rfl, rfl⟩
  unfold State.Accounted
  rw [hadmitted.1, hadmitted.2]
  refine Accounts.enter h (hstore.head_lt hf) hl rfl (.inl rfl)
    (by rintro _ _ ⟨⟩; exact ⟨hdemand, hflags⟩) hadds fun j => ?_
  exact ((Relived.countSetup ..).trans (.recompute ..)).handleOf j |>.trans (State.handleOf_takeRecord hf ..)

/-- A newcomer is enqueued in its place (R74). -/
theorem State.Accounted.enqueue (hstore : StoreExact s) (h : s.Accounted) (hn : s.takesNewcomer ses) : (s.enqueue ses).Accounted := by
  obtain ⟨hne, -, hdemand, hflags⟩ := hn
  obtain ⟨i, rest, hf⟩ := List.exists_cons_of_ne_nil hne
  have hl := hstore.head_free hf
  have hnext := State.nextFree_eq hf
  have hlive := State.liveAt_takeRecord hf ses (s.queuedStage ses)
  have hbook := h.books ses.key.cell
  have hsame (a : Nat) (ha : a ∈ (s.account ses.key.cell).queue) :
      (s.takeRecord ses (s.queuedStage ses)).emergencyAt a = s.emergencyAt a := by
    have hai : a ≠ i := by
      rintro rfl
      rw [hbook.queued, hl] at ha
      exact Live.not_waits_none ha
    rw [State.emergencyAt_eq, hlive, Function.update_of_ne hai]
    rfl
  obtain ⟨hperm, hurgent⟩ := queueInsert_urgent (e := (s.takeRecord ses (s.queuedStage ses)).emergencyAt)
    (va := (s.takeRecord ses (s.queuedStage ses)).virtualAt) (i := i) (q := (s.account ses.key.cell).queue)
    (hbook.urgentFirst.imp_of_mem fun {a b} ha hb hab => by rwa [hsame a ha, hsame b hb])
  have hcell : (s.takeRecord ses (s.queuedStage ses)).cell ses.key.cell = s.cell ses.key.cell := by
    obtain ⟨-, -, -, hcells, -⟩ := State.takeRecord_taken s ses (s.queuedStage ses) i rest hf
    unfold State.cell
    rw [hcells]
  have henqueued : (s.enqueue ses).liveAt = Function.update s.liveAt i (some (ses, s.queuedStage ses))
      ∧ (s.enqueue ses).account = Function.update s.account ses.key.cell { s.account ses.key.cell with
        queue := queueInsert (s.takeRecord ses (s.queuedStage ses)).emergencyAt (s.takeRecord ses (s.queuedStage ses)).virtualAt i
          (s.account ses.key.cell).queue
        enqueueOrder := (s.account ses.key.cell).enqueueOrder ++ [i] } := by
    unfold State.enqueue
    dsimp only
    rw [State.liveAt_modCell, hlive, State.account_modCell, State.account_takeRecord, hcell, hnext]
    exact ⟨rfl, rfl⟩
  unfold State.Accounted
  rw [henqueued.1, henqueued.2]
  exact Accounts.enter h (hstore.head_lt hf) hl rfl (.inl rfl) (by rintro _ _ ⟨⟩; exact ⟨hdemand, hflags⟩) {
    countA := rfl
    countC := rfl
    countR := rfl
    queued := fun _ => ⟨hperm, List.perm_append_singleton .., by rw [← hlive]; exact hurgent⟩
    unqueued := fun hq => nomatch hq
    ranked := fun hr => nomatch hr.1
    unranked := fun _ => rfl } fun j => State.handleOf_takeRecord hf ses (s.queuedStage ses) j

end

end Sys2Proof.Machine
end

section
/-! The accounts and bonds through every event. -/

namespace Sys2Proof.Machine

/-! ### Changes that leave live records and accounts alone -/

/-- Live records, their handles and the accounts are as they were. -/
structure Unmoved (s t : State) : Prop where
  live : t.liveAt = s.liveAt
  handle : ∀ i, t.handleOf i = s.handleOf i
  account : t.account = s.account

section
variable {s t u : State} {c : CellIx} {i : Nat} {ses ses' : Session} {st st' : Stage}

theorem Unmoved.trans (h1 : Unmoved s t) (h2 : Unmoved t u) : Unmoved s u :=
  ⟨h2.live.trans h1.live, fun i => (h2.handle i).trans (h1.handle i), h2.account.trans h1.account⟩

theorem Unmoved.of_records (hrecords : t.records = s.records) (haccount : t.account = s.account) : Unmoved s t := by
  have hrecord (i : Nat) : t.record i = s.record i := by unfold State.record; rw [hrecords]
  exact ⟨funext fun i => State.liveAt_of_record (hrecord i),
    fun i => State.handleOf_congr (congrArg Record.generation (hrecord i)), haccount⟩

theorem Unmoved.of_tables (hrecords : t.records = s.records) (hcells : t.cells = s.cells) : Unmoved s t :=
  .of_records hrecords (State.account_of_cells hcells)

theorem State.Accounted.unmoved (h : s.Accounted) (ht : Unmoved s t) : t.Accounted := h.same ht.live ht.handle ht.account

/-- A change of a cell's entry that its account does not see. -/
theorem Unmoved.modCell (s : State) (c : CellIx) (f : Cell → Cell) (hf : ∀ k, (f k).account = k.account) :
    Unmoved s (s.modCell c f) := by
  refine .of_records rfl ?_
  rw [State.account_modCell, hf]
  exact Function.update_eq_self ..

theorem Unmoved.recompute (s : State) (c : CellIx) : Unmoved s (s.recompute c) :=
  .of_records (State.recompute_records ..) (State.account_recompute ..)

theorem Unmoved.dropEntry (s : State) (e : BacklogEntry) : Unmoved s (s.dropEntry e) := by
  refine ⟨funext (s.dropEntry_liveAt e), fun i => ?_, State.account_butPending (cellsButPending_dropEntry s e)⟩
  cases e with
  | cell c => rfl
  | record j =>
    refine State.handleOf_congr ?_
    show ((s.dropPending j).record i).generation = _
    rw [State.dropPending_record]
    split
    · next hij => rw [hij]
    · rfl

theorem Unmoved.dropEntries (s : State) (es : List BacklogEntry) : Unmoved s (s.dropEntries es) := by
  unfold State.dropEntries
  induction es generalizing s with
  | nil => exact .of_tables rfl rfl
  | cons e rest ih => exact (Unmoved.dropEntry s e).trans (ih _)

theorem Unmoved.clearNotices (s : State) (p : PortIx) : Unmoved s (s.clearNotices p) :=
  (Unmoved.dropEntries s (s.port p).backlog).trans (.of_tables rfl rfl)

theorem Unmoved.refillRing (s : State) (p : PortIx) (fuel : Nat) : Unmoved s (s.refillRing p fuel) := by
  induction fuel generalizing s with
  | zero => exact .of_tables rfl rfl
  | succ n ih =>
    unfold State.refillRing
    split
    · exact .of_tables rfl rfl
    · split
      · next e rest _ _ =>
        have hmoved : Unmoved s (s.modPort p fun q => { q with backlog := rest, ring := q.ring ++ (s.entryNotice e).toList }) :=
          .of_tables rfl rfl
        exact (hmoved.trans (.dropEntry _ e)).trans (ih _)
      · exact .of_tables rfl rfl

theorem Unmoved.fetchNotices (s : State) (p : PortIx) (k : Nat) : Unmoved s (s.fetchNotices p k).2 := by
  have hdropped : Unmoved s (s.modPort p fun q => { q with ring := q.ring.drop k }) := .of_tables rfl rfl
  exact (hdropped.trans (.refillRing _ p _)).trans (.of_tables rfl rfl)

theorem Unmoved.enterDraining (s : State) (p : PortIx) : Unmoved s (s.enterDraining p) := by
  have haway : Unmoved s (s.turnAway p) := .of_tables rfl rfl
  exact (haway.trans (.clearNotices _ p)).trans (.of_tables rfl rfl)

theorem Unmoved.handOver (s : State) (l : Lane) (p : PortIx) : Unmoved s (s.handOver l p) := .of_tables (by simp) (by simp)

theorem Unmoved.acceptFrame (s : State) (p : PortIx) (r : Request) : Unmoved s (s.acceptFrame p r) := by
  unfold State.acceptFrame State.placeRequest
  split
  · exact .of_tables rfl rfl
  · split <;> exact .of_tables rfl rfl

theorem Unmoved.closeCell (s : State) (c : CellIx) : Unmoved s (s.closeCell c) := by
  have hclosed : Unmoved s (s.modCell c fun k => { k with state := .closed, level := 0 }) := .modCell s c _ fun _ => rfl
  unfold State.closeCell
  dsimp only
  split
  · exact hclosed
  · exact hclosed.trans (.of_records (by simp) (State.account_butPending (cellsButPending_raiseLevel _ c)))

theorem Unmoved.commandDone (s : State) (c : CellIx) (state : CellState) : Unmoved s (s.commandDone c state) :=
  .modCell s c _ fun _ => rfl

theorem Unmoved.storePart (s : State) (f : Field) (part : Part) (b : Byte) : Unmoved s (s.storePart f part b) := by
  cases part with
  | whole =>
    simp only [State.storePart, State.storeByte]
    split
    · exact .modCell s _ _ fun _ => rfl
    all_goals exact .of_tables rfl rfl
  | high =>
    simp only [State.storePart]
    split <;> exact .of_tables rfl rfl
  | low =>
    simp only [State.storePart, State.storeHalf]
    split <;> exact .of_tables rfl rfl

/-! ### Changes of a record in place -/

theorem State.handleOf_setLive (s : State) (i : Nat) (ses : Session) (st : Stage) (j : Nat) :
    (s.setLive i ses st).handleOf j = s.handleOf j := State.handleOf_congr (State.generation_setLive ..)

/-- A change of a record that neither books nor bonds see. -/
theorem State.Accounted.setLive (h : s.Accounted) (hl : s.liveAt i = some (ses, st))
    (hs : Live.Same (some (ses, st)) (some (ses', st'))) : (s.setLive i ses' st').Accounted := by
  refine Accounts.same h (fun j => ?_) (State.handleOf_setLive s i ses' st') rfl
  rw [State.liveAt_setLive]
  split
  · next hj => rw [hj, hl]; exact hs
  · exact .refl _

theorem Live.same_tags (ses : Session) (st : Stage) (tags : Half) :
    Live.Same (some (ses, st)) (some ({ ses with tags := tags }, st)) := by
  have hbonds : Live.bond (some ({ ses with tags := tags }, st)) = Live.bond (some (ses, st))
      ∧ Live.links (some ({ ses with tags := tags }, st)) = Live.links (some (ses, st)) := by
    rcases st with _ | _ | _ | _ | ⟨_, _ | _, _⟩ <;> exact ⟨rfl, rfl⟩
  have hcounts : countsA { ses with tags := tags } st = countsA ses st ∧ countsC { ses with tags := tags } st = countsC ses st
      ∧ countsR { ses with tags := tags } st = countsR ses st := by
    cases st <;> exact ⟨rfl, rfl, rfl⟩
  refine ⟨.of_session rfl rfl rfl rfl hcounts.1 hcounts.2.1 hcounts.2.2 rfl rfl, hbonds.1, fun _ ho => hbonds.2 ▸ ho,
    fun hs _ _ he => ?_⟩
  cases he
  exact hs ses st rfl

theorem Live.same_confirmed (ses : Session) (stamp : Tick) (g : Option Tick) :
    Live.Same (some (ses, .setup stamp g)) (some (ses, .active stamp)) := by
  refine ⟨.of_session rfl rfl rfl rfl rfl rfl rfl rfl rfl, rfl, fun _ ho => ho, fun hs _ _ he => ?_⟩
  cases he
  exact hs _ _ rfl

/-- A SETUP or ACTIVE record takes another demand, and A follows (R104, R105). -/
theorem State.Accounted.resize (hstore : StoreExact s) (h : s.Accounted) (hl : s.liveAt i = some (ses, st))
    (hst : st.isAdmitted = true) {d : Nat} (hd : 1 ≤ d) {countA : Nat}
    (hcount : ses.demand ≤ (s.account ses.key.cell).countA → countA + ses.demand = (s.account ses.key.cell).countA + d)
    (htlive : t.liveAt = Function.update s.liveAt i (some ({ ses with demand := d }, st)))
    (htaccount : t.account = Function.update s.account ses.key.cell { s.account ses.key.cell with countA := countA })
    (hthandle : ∀ j, t.handleOf j = s.handleOf j) : t.Accounted := by
  have hi : i < Config.recordCount := State.liveAt_lt hstore (by rw [hl]; exact fun hx => nomatch hx)
  have hbook := h.books ses.key.cell
  obtain ⟨hA, hC, hR, hq⟩ := counts_admitted ses hst
  obtain ⟨hA', hC', hR', -⟩ := counts_admitted { ses with demand := d } hst
  have hle : ses.demand ≤ (s.account ses.key.cell).countA := hA ▸ (hbook.counts_le hi hl rfl).1
  have hqueue := filter_ne_self (hbook.not_mem_queue hl hq)
  have horder := filter_ne_self (hbook.not_mem_order hl hq)
  have hlevel (a : Nat) : Live.level (Function.update (Function.update s.liveAt i none) i (some ({ ses with demand := d }, st)) a)
      = Live.level (s.liveAt a) := by
    rw [Function.update_idem]
    by_cases ha : a = i
    · rw [ha, Function.update_self, hl]
      rfl
    · rw [Function.update_of_ne ha]
  have hrank (hv : ses.vulnerable = true) :
      (s.account ses.key.cell).rankList.Perm (i :: (s.account ses.key.cell).rankList.filter fun j => decide (j ≠ i)) := by
    have hmem : i ∈ (s.account ses.key.cell).rankList := by
      rw [hbook.ranked, hl]
      exact Live.ranks_some.2 ⟨rfl, hst, hv⟩
    refine (List.perm_cons_erase hmem).trans (.of_eq (congrArg _ ?_))
    exact (filter_ne_eq_erase hbook.rankNodup i).symm
  have hswapped := Accounts.swap (ses' := { ses with demand := d }) (st' := st) (handle' := t.handleOf) (c := ses.key.cell)
    (k' := { s.account ses.key.cell with countA := countA }) h hi hl rfl rfl (Live.unbonded_admitted _ hst)
    (Live.unbonded_admitted _ hst) (by rintro _ _ ⟨⟩; exact ⟨hd, (h.sound i _ _ hl).2⟩) {
      countA := by
        have := hcount hle
        simp only [Account.remove, hA, hA']
        omega
      countC := by simp only [Account.remove, hC, hC']; rfl
      countR := by simp only [Account.remove, hR, hR']; rfl
      queued := fun hn => by simp [hq] at hn
      unqueued := fun _ => ⟨hqueue.symm, horder.symm⟩
      ranked := fun hr => ⟨hrank hr.2, hbook.levels.imp fun {a b} hab => by rwa [hlevel, hlevel]⟩
      unranked := fun hr => (filter_ne_self fun hm => by
        rw [hbook.ranked, hl] at hm
        exact hr (Live.ranks_some.1 hm).2).symm } hthandle
  unfold State.Accounted
  rw [htlive, htaccount]
  exact hswapped

/-! ### Moves -/

theorem Stage.restamped_admitted (now : Tick) (h : st.isAdmitted = true) : (st.restamped now).isAdmitted = true := by
  cases st with
  | setup => rfl
  | active => rfl
  | _ => cases h

theorem Live.Sound.moved {target : CellIx} (h : Live.Sound (some (ses, st))) (st' : Stage) :
    Live.Sound (some (s.movedSession ses target, st')) := by
  rintro _ _ ⟨⟩
  exact h ses st rfl

/-- A Move that passes its checks names another cell. -/
theorem State.target_ne (hstore : StoreExact s) (hl : s.liveAt i = some (ses, st)) {target : CellIx}
    (hr : s.moveRefusal ses target = none) : target ≠ ses.key.cell := by
  rintro rfl
  have hkey := State.findKey_of_moveRefusal hr
  have hfound : s.findKey ses.key = some (s.handleOf i) := (hstore.directory _ _).2 ⟨State.keyAt_of_live hl, rfl⟩
  exact nomatch hfound.symm.trans hkey

/-- The account of a cell without a SETUP or ACTIVE record. -/
theorem Booked.remove_admitted {n : Nat} {live : Nat → Live} {k : Account} (h : Booked n live c k) (hl : live i = some (ses, st))
    (hst : st.isAdmitted = true) : k.remove i ses st = { k with
      countA := k.countA - ses.demand, rankList := k.rankList.filter fun j => decide (j ≠ i) } := by
  obtain ⟨hA, hC, hR, hq⟩ := counts_admitted ses hst
  have hqueue := filter_ne_self (h.not_mem_queue hl hq)
  have horder := filter_ne_self (h.not_mem_order hl hq)
  simp only [Account.remove, hA, hC, hR, hqueue, horder, Nat.sub_zero]

/-- A record leaves its cell for another (R109). -/
theorem State.Accounted.relocate (hstore : StoreExact s) (h : s.Accounted) (hl : s.liveAt i = some (ses, st))
    (hst : st.isAdmitted = true) {target : CellIx} (hr : s.moveRefusal ses target = none) :
    (s.relocate i ses st target).Accounted := by
  have hi : i < Config.recordCount := State.liveAt_lt hstore (by rw [hl]; exact fun hx => nomatch hx)
  have hne := State.target_ne hstore hl hr
  have hst' := Stage.restamped_admitted s.tick hst
  generalize hs1 : ((s.subA ses.key.cell ses.demand).leaveRank ses.key.cell i).dropKey ses.key = s1
  generalize hs2 : (s1.setLive i (s.movedSession ses target) (st.restamped s.tick)).addKey (s.movedSession ses target).key
    (s.handleOf i) = s2
  have hlive : s2.liveAt = Function.update s.liveAt i (some (s.movedSession ses target, st.restamped s.tick)) := by
    rw [← hs2, ← hs1]
    exact State.liveAt_setLive_eq ..
  have haccount : s2.account = Function.update s.account ses.key.cell
      ((s.account ses.key.cell).remove i ses st) := by
    have hledger : s2.account = ((s.subA ses.key.cell ses.demand).leaveRank ses.key.cell i).account := by rw [← hs2, ← hs1]; rfl
    rw [hledger, State.account_leaveRank, State.account_subA, Function.update_self, Function.update_idem,
      (h.books ses.key.cell).remove_admitted hl hst]
  have hmoved : s.relocate i ses st target = ((s2.countSetup target i (s.movedSession ses target)).recompute ses.key.cell).recompute
      target := by rw [← hs2, ← hs1]; rfl
  have hhandle (j : Nat) : (s.relocate i ses st target).handleOf j = s.handleOf j := by
    have hstored : s2.handleOf j = s.handleOf j := by
      rw [← hs2, ← hs1]
      exact State.handleOf_setLive ..
    rw [hmoved]
    exact (((Relived.countSetup s2 target i _).trans (.recompute ..)).trans (.recompute ..)).handleOf j |>.trans hstored
  have hleft := Accounts.leave h hi hl (Live.unbonded_admitted ses hst) fun _ _ => rfl
  have hbook := hleft.books target
  have hadds := Account.Adds.counted (st := st.restamped s.tick) (f := s2.levelAt) (ses := s.movedSession ses target) hbook
    (Function.update_self ..) hst' (by rw [State.levelAt_live, hlive, Function.update_self]; rfl) fun a ha => by
      have hai := hbook.ne_of_mem_rank (Function.update_self ..) ha
      rw [State.levelAt_live, hlive, Function.update_of_ne hai, Function.update_of_ne hai]
  have hentered := hleft.enter (handle' := (s.relocate i ses st target).handleOf) hi (Function.update_self ..) rfl
    (Live.unbonded_admitted _ hst') (Live.Sound.moved (by rw [← hl]; exact h.sound i) _) hadds hhandle
  rw [Function.update_idem, ← hlive, ← haccount] at hentered
  unfold State.Accounted
  have hledger : (s.relocate i ses st target).liveAt = s2.liveAt ∧ (s.relocate i ses st target).account
      = Function.update s2.account target ((s2.account target).counted s2.levelAt i (s.movedSession ses target)) := by
    rw [hmoved, State.liveAt_recompute, State.liveAt_recompute, State.liveAt_countSetup, State.account_recompute,
      State.account_recompute, State.account_countSetup]
    exact ⟨rfl, rfl⟩
  rw [hledger.1, hledger.2]
  exact hentered

end

end Sys2Proof.Machine
end

section
/-! Proof of the statement about the accounts of the cells and the bonds of requesters and victims. -/

namespace Sys2Proof.Machine

/-! ### Resets and the aging weight -/

section
variable {s : State}

theorem State.accounted_resetTable (hstore : StoreExact s) : s.resetTable.Accounted := by
  refine (State.accountsExact_iff hstore.tableReset).1 (State.accountsExact_of_empty (fun i => ?_) fun c => ?_)
  · unfold State.liveAt
    rw [State.record_resetTable hstore.canonical, (Record.afterReset_life _).1]
  · rw [State.cell_resetTable]
    exact ⟨rfl, rfl, rfl, rfl, rfl, rfl⟩

theorem State.accounted_reset : State.reset.Accounted := (State.accountsExact_iff storeExact_reset).1 accountsExact_reset

/-- A write of the aging weight changes the virtual arrivals of QUEUED records alone (R73). -/
theorem State.liveAt_reweigh (s : State) (w i : Nat) : Live.Same (s.liveAt i) ((s.reweigh w).liveAt i) := by
  have hrecord := s.record_reweigh w i
  unfold Record.reweighted at hrecord
  split at hrecord
  · next ses arrival va deadline hl =>
    have hnew : (s.reweigh w).liveAt i = some (ses, .queued arrival (virtualArrival arrival ses.level w) deadline) := by
      rw [State.liveAt_eq_some, hrecord]
    rw [State.liveAt_eq_some.2 hl, hnew]
    refine ⟨.of_session rfl rfl rfl rfl rfl rfl rfl rfl rfl, rfl, fun _ ho => ho, fun hs _ _ he => ?_⟩
    cases he
    exact hs _ _ rfl
  · rw [State.liveAt_of_record hrecord]
    exact .refl _

/-- The queues put in order again hold the same records, emergency records first (R71, R73). -/
theorem State.Accounted.reweigh (h : s.Accounted) (w : Nat) : (s.reweigh w).Accounted := by
  have hkept : Accounts Config.recordCount (s.reweigh w).liveAt (s.reweigh w).handleOf s.account :=
    Accounts.same h (s.liveAt_reweigh w) (Relived.reweigh s w).handleOf rfl
  refine ⟨fun c => ?_, hkept.bonds, hkept.current, hkept.sound⟩
  have hbook := hkept.books c
  obtain ⟨hperm, hurgent⟩ := foldl_queueInsert_urgent (e := (s.reweigh w).emergencyAt) (va := (s.reweigh w).virtualAt)
    (s.cell c).enqueueOrder (q := []) .nil
  have horder : (s.cell c).enqueueOrder.Perm (s.cell c).queue := hbook.order
  have haccount : (s.reweigh w).account c = { s.account c with
      queue := (s.cell c).enqueueOrder.foldl (fun l i => queueInsert (s.reweigh w).emergencyAt (s.reweigh w).virtualAt i l) [] } := by
    unfold State.account
    rw [State.cell_reweigh, State.cell_reweigh_queue]
    rfl
  rw [haccount]
  exact ⟨hbook.countA, hbook.countC, hbook.countR, (hperm.trans horder).nodup_iff.2 hbook.queueNodup, hperm.symm,
    fun i => (hperm.trans horder).mem_iff.trans (hbook.queued i), hurgent, hbook.rankNodup, hbook.ranked, hbook.levels⟩

end

/-! ### Every event -/

/-- The record store, the accounts and the bonds are exact. -/
def State.Balanced (s : State) : Prop := StoreExact s ∧ s.Accounted

section
variable {s t : State}

/-- A change that leaves live records and accounts alone, and the store exact. -/
theorem State.Balanced.unmoved (h : s.Balanced) (hstore : StoreExact t) (ht : Unmoved s t) : t.Balanced :=
  ⟨hstore, h.2.unmoved ht⟩

theorem State.Balanced.retired (h : s.Balanced) {i : Nat} {ses : Session} {st : Stage} (hl : s.liveAt i = some (ses, st))
    (ht : t = s.giveUp i ses st ∨ ∃ kind cause, t = (s.giveUp i ses st).raiseSession i kind cause) : (t.retire i).Accounted := by
  have hgiven := (Relived.giveUp s i ses st).handleOf
  rcases ht with rfl | ⟨kind, cause, rfl⟩
  · exact h.2.retired h.1 hl rfl hgiven rfl
  · exact h.2.retired h.1 hl (State.liveAt_raiseSession ..)
      ((Relived.giveUp s i ses st).trans (.raiseSession ..)).handleOf (State.account_raiseSession ..)

theorem State.Balanced.displace (h : s.Balanced) {c : CellIx} {i : Nat} (hi : i ∈ (s.cell c).queue) : (s.displace i).Accounted := by
  obtain ⟨ses, st, hl, -, hst⟩ := ((h.2.books c).queued i).1 hi
  cases st with
  | queued arrival va deadline => exact h.retired (t := s.raiseSession i .expired .displaced) hl (.inr ⟨_, _, rfl⟩)
  | _ => cases hst

theorem keepsService_accounts : KeepsService State.Balanced where
  raised i kind cause h := ⟨keepsTables_store.raised i kind cause h.1, h.2.raiseSession i kind cause⟩
  retired h hl ht := ⟨keepsTables_store.retired h.1 hl ht, h.retired hl ht⟩
  served h hq hl := ⟨keepsTables_store.served h.1 hq hl, h.2.serveHead h.1 hq hl⟩
  heldHead h hq hl hfit hvs := ⟨keepsTables_store.heldHead h.1 hq hl hfit hvs, h.2.holdHead h.1 hq hl hfit hvs⟩

theorem keepsTables_accounts : KeepsTables State.Balanced where
  toKeepsService := keepsService_accounts
  displaced h hi := ⟨keepsTables_store.displaced h.1 hi, h.displace hi⟩
  admitted h hn := ⟨keepsTables_store.admitted h.1 hn, h.2.admitPlain h.1 hn⟩
  preempted h hn hfit hvs := ⟨keepsTables_store.preempted h.1 hn hfit hvs, h.2.admitHeld h.1 hn hfit hvs⟩
  enqueued h hn := ⟨keepsTables_store.enqueued h.1 hn, h.2.enqueue h.1 hn⟩
  confirmed {s i ses stamp g} h hl :=
    ⟨keepsTables_store.confirmed h.1 hl, h.2.setLive hl (Live.same_confirmed ses stamp g)⟩
  tagged {s i ses st} tags h hl := ⟨keepsTables_store.tagged tags h.1 hl, h.2.setLive hl (Live.same_tags ses st tags)⟩
  decreased {s i d ses st} h hl hst h1 hlt := by
    refine ⟨keepsTables_store.decreased h.1 hl hst h1 hlt, h.2.resize (countA := (s.account ses.key.cell).countA - (ses.demand - d))
      h.1 hl hst h1 (fun hle => by omega) ?_ ?_ fun j => ?_⟩
    · rw [State.liveAt_recompute]
      exact State.liveAt_setLive_eq ..
    · rw [State.account_recompute, State.account_subA]
      rfl
    · exact (((Relived.modCell _ ses.key.cell _).trans (.recompute ..)).handleOf j).trans (State.handleOf_setLive ..)
  increased {s i d ses st} h hl hst hlt := by
    refine ⟨keepsTables_store.increased h.1 hl hst hlt, h.2.resize (countA := (s.account ses.key.cell).countA + (d - ses.demand))
      h.1 hl hst (Nat.one_le_of_lt hlt) (fun _ => by rw [Nat.add_assoc, Nat.sub_add_cancel hlt.le]) ?_ ?_ fun j => ?_⟩
    · rw [State.liveAt_recompute]
      exact State.liveAt_setLive_eq ..
    · rw [State.account_recompute, State.account_addA]
      rfl
    · exact (((Relived.modCell _ ses.key.cell _).trans (.recompute ..)).handleOf j).trans (State.handleOf_setLive ..)
  moved h hl hst hr := ⟨keepsTables_store.moved h.1 hl hst hr, h.2.relocate h.1 hl hst hr⟩
  fetched p k h := h.unmoved (keepsTables_store.fetched p k h.1) (.fetchNotices _ p k)

theorem keepsEvents_accounts : KeepsEvents State.Balanced where
  toKeepsTables := keepsTables_accounts
  handedOver h ha := h.unmoved (keepsEvents_store.handedOver h.1 ha) (.handOver ..)
  answered p r a h := h.unmoved (keepsEvents_store.answered p r a h.1) (.of_tables rfl rfl)
  discarded p h := h.unmoved (keepsEvents_store.discarded p h.1) (.of_tables rfl rfl)
  arrived p r h := h.unmoved (keepsEvents_store.arrived p r h.1) (.acceptFrame ..)
  sent bytes draws h ht := h.unmoved (keepsEvents_store.sent bytes draws h.1 ht) (.of_tables rfl rfl)
  withdrawn {s l p r} h ha := by
    have hanswered : Unmoved s ((s.handOver l p).answer p r (bare .ok)) := (Unmoved.handOver s l p).trans (.of_tables rfl rfl)
    exact h.unmoved (keepsEvents_store.withdrawn h.1 ha) (hanswered.trans (.enterDraining _ p))
  expired {s p} h hw := h.unmoved (keepsEvents_store.expired h.1 hw) ((Unmoved.enterDraining s p).trans (.of_tables rfl rfl))
  pulseEnded h hd := h.unmoved (keepsEvents_store.pulseEnded h.1 hd) (.of_tables rfl rfl)
  begun {s j} h hj hnext := by
    refine h.unmoved (keepsEvents_store.begun h.1 hj hnext) ?_
    cases j with
    | portDrain p => exact .of_tables rfl rfl
    | cellDrain c =>
      have hflag : Unmoved s (s.modCell c fun k => { k with drainFlag := false }) := .modCell s c _ fun _ => rfl
      exact hflag.trans (.of_tables rfl rfl)
  cellDrained {s c} h hj he :=
    h.unmoved (keepsEvents_store.cellDrained h.1 hj he) ((Unmoved.closeCell s c).trans (.of_tables rfl rfl))
  portDrained h hj he := h.unmoved (keepsEvents_store.portDrained h.1 hj he) (.of_tables rfl rfl)
  accessed tr out cap draws h := h.unmoved (keepsEvents_store.accessed tr out cap draws h.1) (.of_tables rfl rfl)
  tableOpened h := h.unmoved (keepsEvents_store.tableOpened h.1) (.of_tables rfl rfl)
  tableReset h := ⟨keepsEvents_store.tableReset h.1, State.accounted_resetTable h.1⟩
  opened {s c} h hst :=
    h.unmoved (keepsEvents_store.opened h.1 hst) ((Unmoved.commandDone s c .opened).trans (.recompute ..))
  barred {s c} h hst := h.unmoved (keepsEvents_store.barred h.1 hst) (.commandDone ..)
  unbarred {s c} h hst := h.unmoved (keepsEvents_store.unbarred h.1 hst) (.commandDone ..)
  draining {s c} h hst := by
    have hflag : Unmoved s ((s.commandDone c .draining).modCell c fun k => { k with drainFlag := true }) :=
      (Unmoved.commandDone s c .draining).trans (.modCell _ c _ fun _ => rfl)
    exact h.unmoved (keepsEvents_store.draining h.1 hst) (hflag.trans (.of_tables rfl rfl))
  stopped {s c} h hst := by
    have hflag : Unmoved s ((s.commandDone c .barred).modCell c fun k => { k with drainFlag := false }) :=
      (Unmoved.commandDone s c .barred).trans (.modCell _ c _ fun _ => rfl)
    exact h.unmoved (keepsEvents_store.stopped h.1 hst) (hflag.trans (.of_tables rfl rfl))
  refused {s} c h := h.unmoved (keepsEvents_store.refused c h.1) (.modCell s c _ fun _ => rfl)
  watchRestarted h := h.unmoved (keepsEvents_store.watchRestarted h.1) (.of_tables rfl rfl)
  attention p b h := h.unmoved (keepsEvents_store.attention p b h.1) (.of_tables rfl rfl)
  pulseWidth p b h := h.unmoved (keepsEvents_store.pulseWidth p b h.1) (.of_tables rfl rfl)
  ringSize p b h := h.unmoved (keepsEvents_store.ringSize p b h.1) (.of_tables rfl rfl)
  eventsSet raw enable h := h.unmoved (keepsEvents_store.eventsSet raw enable h.1) (.of_tables rfl rfl)

/-- A write of a cell's setting, with its recompute. -/
theorem Unmoved.setting (s : State) (c : CellIx) (f : Cell → Cell) (hf : ∀ k, (f k).account = k.account) :
    Unmoved s ((s.modCell c f).recompute c) := (Unmoved.modCell s c f hf).trans (.recompute ..)

theorem keepsAll_accounts : KeepsAll State.Balanced where
  toKeepsEvents := keepsEvents_accounts
  pinReset h := State.Balanced.unmoved (s := State.reset) ⟨storeExact_reset, State.accounted_reset⟩
    (keepsAll_store.pinReset h.1) (.of_tables rfl rfl)
  ticked now draws h := h.unmoved (keepsAll_store.ticked now draws h.1) (.of_tables rfl rfl)
  stored f part b h := h.unmoved (keepsAll_store.stored f part b h.1) (.storePart _ f part b)
  capacity {s c _} h hv := h.unmoved (keepsAll_store.capacity h.1 hv) (.setting s c _ fun _ => rfl)
  floor {s c _} h hv := h.unmoved (keepsAll_store.floor h.1 hv) (.modCell s c _ fun _ => rfl)
  threshold1 c v h := h.unmoved (keepsAll_store.threshold1 c v h.1) (.setting _ c _ fun _ => rfl)
  threshold2 c v h := h.unmoved (keepsAll_store.threshold2 c v h.1) (.setting _ c _ fun _ => rfl)
  threshold3 c v h := h.unmoved (keepsAll_store.threshold3 c v h.1) (.setting _ c _ fun _ => rfl)
  owner {s c} p h hst hp := h.unmoved (keepsAll_store.owner p h.1 hst hp) (.modCell s c _ fun _ => rfl)
  depthLimit c v h := h.unmoved (keepsAll_store.depthLimit c v h.1) (.modCell _ c _ fun _ => rfl)
  reweighed v h := ⟨keepsAll_store.reweighed v h.1, h.2.reweigh _⟩
  supervision v h := h.unmoved (keepsAll_store.supervision v h.1) (.of_tables rfl rfl)

end

/-- Settles O10, by what each event does to the live records and the accounts: a record leaves its cell, enters one or changes
in place, a requester is bound to its victims, or a bond ends. -/
theorem cellAccountsStayExact : Obligations.CellAccountsStayExact := by
  intro s t hstore haccounts hstep
  have hs := (storeExact_iff s).1 hstore
  obtain ⟨ht, hbalanced⟩ := keepsAll_accounts.step
    (fun q h => h.unmoved (h.1.same rfl rfl rfl) (.of_tables rfl rfl)) ⟨hs, (State.accountsExact_iff hs).1 haccounts⟩ hstep
  exact (State.accountsExact_iff ht).2 hbalanced

end Sys2Proof.Machine
end
